-- ==== Sys2Proof/Word.lean ====
section
/-! DEFINITION. The two word sizes of the machine: rule R6 gives an 8-bit data register width and 16-bit
register pairs, index registers, SP, PC and addresses. -/

namespace Sys2Proof

/-- An 8-bit value: a register, a memory byte, a port byte (rule R6). -/
abbrev Byte := BitVec 8

/-- A 16-bit value: a register pair, an address, an immediate `nn` (rule R6). -/
abbrev Word := BitVec 16

end Sys2Proof
end

