-- ==== Sys2Proof/Config.lean ====
section
/-! DEFINITION. What one instance of the hardware fixes (the parameters of rule R7, as plain data, so that every
statement about all states is a statement about all instances) and the values the spec leaves free (the draws of
rule R7, as constants without a body). -/

namespace Sys2Proof.Config

/-- `R_INC_DDCB` of rules R7 and R130: the R increments of a `DD CB d op` or `FD CB d op` instruction, 2 or 3. -/
inductive RIncDdcb where
  | two
  | three
  deriving DecidableEq, Repr

/-- `Contend` of rules R7 and R590. `none` is the default, the zero function. `ula48` and `ula128` are the two
candidates of rule R591. `free` delays every contended cycle by an unstated number of T-states from 0 to 6. -/
inductive Contention where
  | none
  | ula48
  | ula128
  | free
  deriving DecidableEq, Repr

/-- The parameters of rule R7 that select an instance of the hardware. -/
structure Params where
  /-- R increments of the `XD CB` forms (rule R130, decision D9). -/
  rIncDdcb : RIncDdcb
  /-- The bit of `Flags1` that marks a compressed version 1 body (rule R462, decision D24). -/
  v1CompressedMask : Byte
  /-- `IsPagingPort` (rule R445, decision D19): port `hi:lo` is a paging port when `port &&& mask = value` for some
  `(mask, value)` of the list. The default compares all sixteen bits with 0x7FFD; the partial decode the rule names is
  `(0x8002, 0x0000)`; a list of full masks is any predicate. -/
  pagingPorts : List (Word × Word)
  /-- ULA wait states (rule R590, decision D18). -/
  contention : Contention
  deriving DecidableEq, Repr

/-- The defaults rule R7 recommends. -/
def Params.default : Params where
  rIncDdcb := .two
  v1CompressedMask := 0x40
  pagingPorts := [(0xFFFF, 0x7FFD)]
  contention := .none

/-- The byte the excluded peripherals answer to the `k`-th port read, of port `hi:lo`, when the host has lined up no
answer: any byte (rule R441, a draw). -/
opaque freePort : (k : Nat) → (lo hi : Byte) → Byte

/-- The byte the interrupting device supplies at the `k`-th acknowledge, when the host has lined up no answer: any byte
(rules R536 and R538, a draw). -/
opaque freeBus : (k : Nat) → Byte

/-- The T-state of a slot at which its `j`-th memory cycle begins, for the slot whose instruction bytes are `code`
(no bytes for an interrupt entry) and whose base cost is `base`. The spec gives no breakdown of an instruction into cycles
(rule R590, note N8). -/
opaque cycleOffset : (base : Nat) → (code : List Byte) → (j : Nat) → Nat

/-- The delay of a contended cycle that begins at T-state `t` at address `a`, before it is bounded by 6
(rule R590: the delay table is not in the document). -/
opaque freeDelay : (t : Nat) → (a : Word) → Nat

end Sys2Proof.Config
end

