-- ==== Sys2Proof/Syntax.lean ====
section
/-! DEFINITION. The instructions as syntax: one constructor of `Instr` per mnemonic of spec/opcode_table.json, and the
operand types its fields range over (rules R124 to R127). -/

namespace Sys2Proof

/-- A three-bit field of an opcode byte (rule R123): a bit number, a restart number, or a don't-care field. -/
abbrev Bits3 := BitVec 3

/-- The 8-bit registers of code table R124. Code 110 is never a register. -/
inductive Reg8 where
  | b | c | d | e | h | l | a
  deriving DecidableEq, Repr

/-- The index register an index prefix selects: `DD` IX, `FD` IY (rule R120). -/
inductive XY where
  | ix | iy
  deriving DecidableEq, Repr

/-- The two halves of an index register (rule R25). -/
inductive Half where
  | high | low
  deriving DecidableEq, Repr

/-- The operands of `LD p,p'` under an index prefix: code 100 is `XYH`, 101 is `XYL` (rule R180). -/
inductive PReg where
  | b | c | d | e | xyh | xyl | a
  deriving DecidableEq, Repr

/-- Pairs of loads, 16-bit arithmetic, `INC` and `DEC` (rule R125, column dd / ss). -/
inductive PairDD where
  | bc | de | hl | sp
  deriving DecidableEq, Repr

/-- Pairs of `PUSH` and `POP` (rule R125, column qq). -/
inductive PairQQ where
  | bc | de | hl | af
  deriving DecidableEq, Repr

/-- Pairs of `ADD IX,pp` and `ADD IY,rr` (rule R125): code 10 is the index register itself. -/
inductive PairPP where
  | bc | de | xy | sp
  deriving DecidableEq, Repr

/-- The condition codes of rule R32. -/
inductive Cond where
  | nz | z | nc | c | po | pe | p | m
  deriving DecidableEq, Repr

/-- The five decode tables of rule R143. -/
inductive Table where
  | main | cb | ed | xd | xdcb
  deriving DecidableEq, Repr

/-- An instruction: a row of the opcode table with its operand values. Displacements `d` and offsets `e` are kept as the
byte in the instruction stream (rule R127). The rows in parentheses of rule R143 are the last eight constructors:
an index prefix in front of an instruction it does not change, in front of an ED instruction, or overridden by a later
index prefix wraps the instruction that follows it; a prefix byte with nothing after it stands for the unfinished
lookup. -/
inductive Instr where
  -- 8-bit load group (40_load8.md)
  /-- `LD r,r'` (rule R160). -/
  | ldRR (r : Reg8) (r' : Reg8)
  /-- `LD r,n` (rule R161). -/
  | ldRN (r : Reg8) (n : Byte)
  /-- `LD r,(HL)` (rule R162). -/
  | ldRHL (r : Reg8)
  /-- `LD r,(XY+d)` (the real H and L) (rule R163). -/
  | ldRXYd (xy : XY) (r : Reg8) (d : Byte)
  /-- `LD (HL),r` (rule R164). -/
  | ldHLR (r : Reg8)
  /-- `LD (XY+d),r` (the real H and L) (rule R165). -/
  | ldXYdR (xy : XY) (r : Reg8) (d : Byte)
  /-- `LD (HL),n` (rule R166). -/
  | ldHLN (n : Byte)
  /-- `LD (XY+d),n` (rule R167). -/
  | ldXYdN (xy : XY) (d : Byte) (n : Byte)
  /-- `LD A,(BC)` (rule R168). -/
  | ldABC
  /-- `LD A,(DE)` (rule R169). -/
  | ldADE
  /-- `LD A,(nn)` (rule R170). -/
  | ldANN (nn : Word)
  /-- `LD (BC),A` (rule R171). -/
  | ldBCA
  /-- `LD (DE),A` (rule R172). -/
  | ldDEA
  /-- `LD (nn),A` (rule R173). -/
  | ldNNA (nn : Word)
  /-- `LD A,I` (rule R176). -/
  | ldAI
  /-- `LD A,R`: R as the two fetch increments left it (rule R177). -/
  | ldAR
  /-- `LD I,A` (rule R178). -/
  | ldIA
  /-- `LD R,A`: all eight bits (rule R179). -/
  | ldRA
  /-- `LD p,p'` (undocumented), at least one side an index half (rule R180). -/
  | ldPP (xy : XY) (p : PReg) (p' : PReg)
  /-- `LD XYH,n` (undocumented) (rule R181). -/
  | ldXYHN (xy : XY) (n : Byte)
  /-- `LD XYL,n` (undocumented) (rule R181). -/
  | ldXYLN (xy : XY) (n : Byte)
  -- 16-bit load group, PUSH and POP (41_load16_stack.md)
  /-- `LD dd,nn` (rule R200). -/
  | ldDDNN (dd : PairDD) (nn : Word)
  /-- `LD XY,nn` (rule R201). -/
  | ldXYNN (xy : XY) (nn : Word)
  /-- `LD HL,(nn)` (rule R202). -/
  | ldHLNN (nn : Word)
  /-- `LD dd,(nn)` (rule R203). -/
  | ldDDMem (dd : PairDD) (nn : Word)
  /-- `LD XY,(nn)` (rule R204). -/
  | ldXYMem (xy : XY) (nn : Word)
  /-- `LD (nn),HL` (rule R205). -/
  | ldNNHL (nn : Word)
  /-- `LD (nn),dd` (rule R206). -/
  | ldNNDD (nn : Word) (dd : PairDD)
  /-- `LD (nn),XY` (rule R207). -/
  | ldNNXY (xy : XY) (nn : Word)
  /-- `LD SP,HL` (rule R208). -/
  | ldSPHL
  /-- `LD SP,XY` (rule R209). -/
  | ldSPXY (xy : XY)
  /-- `PUSH qq` (rule R210). -/
  | pushQQ (qq : PairQQ)
  /-- `PUSH XY` (rule R211). -/
  | pushXY (xy : XY)
  /-- `POP qq` (rule R212). -/
  | popQQ (qq : PairQQ)
  /-- `POP XY` (rule R213). -/
  | popXY (xy : XY)
  -- exchange group (42_exchange_block.md)
  /-- `EX DE,HL` (rule R230). -/
  | exDEHL
  /-- `EX AF,AF'` (rule R231). -/
  | exAFAF
  /-- `EXX` (rule R232). -/
  | exx
  /-- `EX (SP),HL` (rule R233). -/
  | exSPHL
  /-- `EX (SP),XY` (rule R234). -/
  | exSPXY (xy : XY)
  -- block transfer and block search group (42_exchange_block.md)
  /-- `LDI` (rule R235). -/
  | ldi
  /-- `LDIR`, one iteration (rule R236). -/
  | ldir
  /-- `LDD` (rule R237). -/
  | ldd
  /-- `LDDR`, one iteration (rule R238). -/
  | lddr
  /-- `CPI` (rule R239). -/
  | cpi
  /-- `CPIR`, one iteration (rule R240). -/
  | cpir
  /-- `CPD` (rule R241). -/
  | cpd
  /-- `CPDR`, one iteration (rule R242). -/
  | cpdr
  -- 8-bit arithmetic and logic group (43_alu8.md)
  /-- `ADD A,r` (rule R270). -/
  | addR (r : Reg8)
  /-- `ADD A,(HL)` (rule R270). -/
  | addHL
  /-- `ADD A,n` (rule R270). -/
  | addN (n : Byte)
  /-- `ADD A,(XY+d)` (rule R270). -/
  | addXYd (xy : XY) (d : Byte)
  /-- `ADD A,XYH` (undocumented) (rule R270). -/
  | addXYH (xy : XY)
  /-- `ADD A,XYL` (undocumented) (rule R270). -/
  | addXYL (xy : XY)
  /-- `ADC A,r` (rule R271). -/
  | adcR (r : Reg8)
  /-- `ADC A,(HL)` (rule R271). -/
  | adcHL
  /-- `ADC A,n` (rule R271). -/
  | adcN (n : Byte)
  /-- `ADC A,(XY+d)` (rule R271). -/
  | adcXYd (xy : XY) (d : Byte)
  /-- `ADC A,XYH` (undocumented) (rule R271). -/
  | adcXYH (xy : XY)
  /-- `ADC A,XYL` (undocumented) (rule R271). -/
  | adcXYL (xy : XY)
  /-- `SUB r` (rule R272). -/
  | subR (r : Reg8)
  /-- `SUB (HL)` (rule R272). -/
  | subHL
  /-- `SUB n` (rule R272). -/
  | subN (n : Byte)
  /-- `SUB (XY+d)` (rule R272). -/
  | subXYd (xy : XY) (d : Byte)
  /-- `SUB XYH` (undocumented) (rule R272). -/
  | subXYH (xy : XY)
  /-- `SUB XYL` (undocumented) (rule R272). -/
  | subXYL (xy : XY)
  /-- `SBC A,r` (rule R273). -/
  | sbcR (r : Reg8)
  /-- `SBC A,(HL)` (rule R273). -/
  | sbcHL
  /-- `SBC A,n` (rule R273). -/
  | sbcN (n : Byte)
  /-- `SBC A,(XY+d)` (rule R273). -/
  | sbcXYd (xy : XY) (d : Byte)
  /-- `SBC A,XYH` (undocumented) (rule R273). -/
  | sbcXYH (xy : XY)
  /-- `SBC A,XYL` (undocumented) (rule R273). -/
  | sbcXYL (xy : XY)
  /-- `AND r` (rule R274). -/
  | andR (r : Reg8)
  /-- `AND (HL)` (rule R274). -/
  | andHL
  /-- `AND n` (rule R274). -/
  | andN (n : Byte)
  /-- `AND (XY+d)` (rule R274). -/
  | andXYd (xy : XY) (d : Byte)
  /-- `AND XYH` (undocumented) (rule R274). -/
  | andXYH (xy : XY)
  /-- `AND XYL` (undocumented) (rule R274). -/
  | andXYL (xy : XY)
  /-- `XOR r` (rule R275). -/
  | xorR (r : Reg8)
  /-- `XOR (HL)` (rule R275). -/
  | xorHL
  /-- `XOR n` (rule R275). -/
  | xorN (n : Byte)
  /-- `XOR (XY+d)` (rule R275). -/
  | xorXYd (xy : XY) (d : Byte)
  /-- `XOR XYH` (undocumented) (rule R275). -/
  | xorXYH (xy : XY)
  /-- `XOR XYL` (undocumented) (rule R275). -/
  | xorXYL (xy : XY)
  /-- `OR r` (rule R276). -/
  | orR (r : Reg8)
  /-- `OR (HL)` (rule R276). -/
  | orHL
  /-- `OR n` (rule R276). -/
  | orN (n : Byte)
  /-- `OR (XY+d)` (rule R276). -/
  | orXYd (xy : XY) (d : Byte)
  /-- `OR XYH` (undocumented) (rule R276). -/
  | orXYH (xy : XY)
  /-- `OR XYL` (undocumented) (rule R276). -/
  | orXYL (xy : XY)
  /-- `CP r` (rule R277). -/
  | cpR (r : Reg8)
  /-- `CP (HL)` (rule R277). -/
  | cpHL
  /-- `CP n` (rule R277). -/
  | cpN (n : Byte)
  /-- `CP (XY+d)` (rule R277). -/
  | cpXYd (xy : XY) (d : Byte)
  /-- `CP XYH` (undocumented) (rule R277). -/
  | cpXYH (xy : XY)
  /-- `CP XYL` (undocumented) (rule R277). -/
  | cpXYL (xy : XY)
  /-- `INC r` (rule R278). -/
  | incR (r : Reg8)
  /-- `INC (HL)` (rule R278). -/
  | incHL
  /-- `INC (XY+d)` (rule R278). -/
  | incXYd (xy : XY) (d : Byte)
  /-- `INC XYH` (undocumented) (rule R278). -/
  | incXYH (xy : XY)
  /-- `INC XYL` (undocumented) (rule R278). -/
  | incXYL (xy : XY)
  /-- `DEC r` (rule R279). -/
  | decR (r : Reg8)
  /-- `DEC (HL)` (rule R279). -/
  | decHL
  /-- `DEC (XY+d)` (rule R279). -/
  | decXYd (xy : XY) (d : Byte)
  /-- `DEC XYH` (undocumented) (rule R279). -/
  | decXYH (xy : XY)
  /-- `DEC XYL` (undocumented) (rule R279). -/
  | decXYL (xy : XY)
  -- general-purpose arithmetic and CPU control group (44_general_cpu_control.md)
  /-- `DAA` (rule R300). -/
  | daa
  /-- `CPL` (rule R301). -/
  | cpl
  /-- `NEG` (rule R302). -/
  | neg
  /-- the undocumented copies of `NEG`, `y` the opcode's middle field (rule R302). -/
  | negCopies (y : Bits3)
  /-- `CCF` (rule R303). -/
  | ccf
  /-- `SCF` (rule R304). -/
  | scf
  /-- `NOP` (rule R305). -/
  | nop
  /-- `HALT` (rule R306). -/
  | halt
  /-- `DI` (rule R307). -/
  | di
  /-- `EI` (rule R308). -/
  | ei
  /-- `IM 0` (rule R309). -/
  | im0
  /-- `IM 1` (rule R309). -/
  | im1
  /-- `IM 2` (rule R309). -/
  | im2
  /-- the undocumented copies of `IM 0`, `y` the opcode's middle field (rule R309). -/
  | im0Copies (y : Bits3)
  /-- the undocumented copy `ED 76` of `IM 1` (rule R309). -/
  | im1Copy
  /-- the undocumented copy `ED 7E` of `IM 2` (rule R309). -/
  | im2Copy
  /-- `ED NOP` (undocumented), `op` its second byte (rule R311). -/
  | edNop (op : Byte)
  -- 16-bit arithmetic group (45_alu16.md)
  /-- `ADD HL,ss` (rule R323). -/
  | addHLSS (ss : PairDD)
  /-- `ADD XY,pp`: pair code 10 is the index register itself (rule R324). -/
  | addXYPP (xy : XY) (pp : PairPP)
  /-- `ADC HL,ss` (rule R325). -/
  | adcHLSS (ss : PairDD)
  /-- `SBC HL,ss` (rule R326). -/
  | sbcHLSS (ss : PairDD)
  /-- `INC ss` (rule R327). -/
  | incSS (ss : PairDD)
  /-- `INC XY` (rule R328). -/
  | incXY (xy : XY)
  /-- `DEC ss` (rule R329). -/
  | decSS (ss : PairDD)
  /-- `DEC XY` (rule R330). -/
  | decXY (xy : XY)
  -- rotate and shift group (46_rotate_shift_bit.md)
  /-- `RLCA` (rule R340). -/
  | rlca
  /-- `RLA` (rule R341). -/
  | rla
  /-- `RRCA` (rule R342). -/
  | rrca
  /-- `RRA` (rule R343). -/
  | rra
  /-- `RLC r` (rule R345). -/
  | rlcR (r : Reg8)
  /-- `RLC (HL)` (rule R345). -/
  | rlcHL
  /-- `RLC (XY+d)` (rule R345). -/
  | rlcXYd (xy : XY) (d : Byte)
  /-- `RLC (XY+d),r` (undocumented) (rule R352). -/
  | rlcXYdR (xy : XY) (d : Byte) (r : Reg8)
  /-- `RRC r` (rule R346). -/
  | rrcR (r : Reg8)
  /-- `RRC (HL)` (rule R346). -/
  | rrcHL
  /-- `RRC (XY+d)` (rule R346). -/
  | rrcXYd (xy : XY) (d : Byte)
  /-- `RRC (XY+d),r` (undocumented) (rule R352). -/
  | rrcXYdR (xy : XY) (d : Byte) (r : Reg8)
  /-- `RL r` (rule R347). -/
  | rlR (r : Reg8)
  /-- `RL (HL)` (rule R347). -/
  | rlHL
  /-- `RL (XY+d)` (rule R347). -/
  | rlXYd (xy : XY) (d : Byte)
  /-- `RL (XY+d),r` (undocumented) (rule R352). -/
  | rlXYdR (xy : XY) (d : Byte) (r : Reg8)
  /-- `RR r` (rule R348). -/
  | rrR (r : Reg8)
  /-- `RR (HL)` (rule R348). -/
  | rrHL
  /-- `RR (XY+d)` (rule R348). -/
  | rrXYd (xy : XY) (d : Byte)
  /-- `RR (XY+d),r` (undocumented) (rule R352). -/
  | rrXYdR (xy : XY) (d : Byte) (r : Reg8)
  /-- `SLA r` (rule R350). -/
  | slaR (r : Reg8)
  /-- `SLA (HL)` (rule R350). -/
  | slaHL
  /-- `SLA (XY+d)` (rule R350). -/
  | slaXYd (xy : XY) (d : Byte)
  /-- `SLA (XY+d),r` (undocumented) (rule R352). -/
  | slaXYdR (xy : XY) (d : Byte) (r : Reg8)
  /-- `SRA r` (rule R351). -/
  | sraR (r : Reg8)
  /-- `SRA (HL)` (rule R351). -/
  | sraHL
  /-- `SRA (XY+d)` (rule R351). -/
  | sraXYd (xy : XY) (d : Byte)
  /-- `SRA (XY+d),r` (undocumented) (rule R352). -/
  | sraXYdR (xy : XY) (d : Byte) (r : Reg8)
  /-- `SLL r` (undocumented) (rule R349). -/
  | sllR (r : Reg8)
  /-- `SLL (HL)` (undocumented) (rule R349). -/
  | sllHL
  /-- `SLL (XY+d)` (undocumented) (rule R349). -/
  | sllXYd (xy : XY) (d : Byte)
  /-- `SLL (XY+d),r` (undocumented) (rule R352). -/
  | sllXYdR (xy : XY) (d : Byte) (r : Reg8)
  /-- `SRL r` (rule R353). -/
  | srlR (r : Reg8)
  /-- `SRL (HL)` (rule R353). -/
  | srlHL
  /-- `SRL (XY+d)` (rule R353). -/
  | srlXYd (xy : XY) (d : Byte)
  /-- `SRL (XY+d),r` (undocumented) (rule R352). -/
  | srlXYdR (xy : XY) (d : Byte) (r : Reg8)
  /-- `RLD` (rule R360). -/
  | rld
  /-- `RRD` (rule R361). -/
  | rrd
  -- bit test, set and reset group (46_rotate_shift_bit.md)
  /-- `BIT b,r` (rule R371). -/
  | bitBR (b : Bits3) (r : Reg8)
  /-- `BIT b,(HL)`: Y and X from H (rule R372). -/
  | bitBHL (b : Bits3)
  /-- `BIT b,(XY+d)`: Y and X from the high byte of the address (rule R373). -/
  | bitBXYd (xy : XY) (d : Byte) (b : Bits3)
  /-- the undocumented copies of `BIT b,(XY+d)`, `z` the opcode's low field: no register is written (rule R373). -/
  | bitBXYdCopies (xy : XY) (d : Byte) (b : Bits3) (z : Bits3)
  /-- `RES b,r` (rule R376). -/
  | resBR (b : Bits3) (r : Reg8)
  /-- `RES b,(HL)` (rule R376). -/
  | resBHL (b : Bits3)
  /-- `RES b,(XY+d)` (rule R376). -/
  | resBXYd (xy : XY) (d : Byte) (b : Bits3)
  /-- `RES b,(XY+d),r` (undocumented) (rule R352). -/
  | resBXYdR (xy : XY) (d : Byte) (b : Bits3) (r : Reg8)
  /-- `SET b,r` (rule R379). -/
  | setBR (b : Bits3) (r : Reg8)
  /-- `SET b,(HL)` (rule R379). -/
  | setBHL (b : Bits3)
  /-- `SET b,(XY+d)` (rule R379). -/
  | setBXYd (xy : XY) (d : Byte) (b : Bits3)
  /-- `SET b,(XY+d),r` (undocumented) (rule R352). -/
  | setBXYdR (xy : XY) (d : Byte) (b : Bits3) (r : Reg8)
  -- jump, call and return group (47_control_transfer.md)
  /-- `JP nn` (rule R391). -/
  | jpNN (nn : Word)
  /-- `JP cc,nn` (rule R392). -/
  | jpCcNN (cc : Cond) (nn : Word)
  /-- `JR e` (rule R393). -/
  | jrE (e : Byte)
  /-- `JR cc,e`, `cc` one of NZ, Z, NC, C (rule R394). -/
  | jrCcE (cc : Cond) (e : Byte)
  /-- `JP (HL)` (rule R395). -/
  | jpHL
  /-- `JP (XY)` (rule R396). -/
  | jpXY (xy : XY)
  /-- `DJNZ e` (rule R397). -/
  | djnzE (e : Byte)
  /-- `CALL nn` (rule R400). -/
  | callNN (nn : Word)
  /-- `CALL cc,nn` (rule R401). -/
  | callCcNN (cc : Cond) (nn : Word)
  /-- `RET` (rule R402). -/
  | ret
  /-- `RET cc` (rule R403). -/
  | retCc (cc : Cond)
  /-- `RETI` (rule R408). -/
  | reti
  /-- `RETN` (rule R409). -/
  | retn
  /-- the undocumented copies of `RETN`, `y` the opcode's middle field (rule R409). -/
  | retnCopies (y : Bits3)
  /-- `RST p`, p = 8 t (rule R410). -/
  | rstP (t : Bits3)
  -- input and output group (48_io.md)
  /-- `IN A,(n)` (rule R420). -/
  | inAN (n : Byte)
  /-- `IN r,(C)` (rule R421). -/
  | inRC (r : Reg8)
  /-- `IN F,(C)` (undocumented): flags only (rule R422). -/
  | inFC
  /-- `OUT (n),A` (rule R423). -/
  | outNA (n : Byte)
  /-- `OUT (C),r` (rule R424). -/
  | outCR (r : Reg8)
  /-- `OUT (C),0` (undocumented) (rule R426). -/
  | outC0
  /-- `INI` (rule R428). -/
  | ini
  /-- `INIR`, one iteration (rule R431). -/
  | inir
  /-- `IND` (rule R429). -/
  | ind
  /-- `INDR`, one iteration (rule R432). -/
  | indr
  /-- `OUTI` (rule R433). -/
  | outi
  /-- `OTIR`, one iteration (rule R435). -/
  | otir
  /-- `OUTD` (rule R434). -/
  | outd
  /-- `OTDR`, one iteration (rule R436). -/
  | otdr
  -- the rows of the opcode table at which the lookup continues (30_encoding.md)
  /-- the byte `CB` alone: the lookup continues in table CB with the byte at PC (rule R121). -/
  | prefixCB
  /-- the byte `DD` alone: selects IX, the lookup continues with the byte at PC (rule R121). -/
  | prefixDD
  /-- the byte `ED` alone: the lookup continues in table ED with the byte at PC (rule R121). -/
  | prefixED
  /-- the byte `FD` alone: selects IY, the lookup continues with the byte at PC (rule R121). -/
  | prefixFD
  /-- an index prefix and `CB`: the displacement and the opcode of table XDCB follow at PC (rule R137). -/
  | prefixCBAfterIndex (xy : XY)
  /-- an index prefix overridden by the index prefix that `i` begins with (rule R136). -/
  | indexAgain (xy : XY) (i : Instr)
  /-- an index prefix in front of the ED instruction `i`, which executes unchanged (rule R135). -/
  | edAfterIndex (xy : XY) (i : Instr)
  /-- an index prefix in front of the main-table instruction `i`, which it does not change (rule R312). -/
  | indexNoEffect (xy : XY) (i : Instr)
  deriving DecidableEq, Repr

/-- The decode table an instruction is found in (rule R143). -/
def Instr.table : Instr → Table
  | .ldRR _ _ => .main
  | .ldRN _ _ => .main
  | .ldRHL _ => .main
  | .ldRXYd _ _ _ => .xd
  | .ldHLR _ => .main
  | .ldXYdR _ _ _ => .xd
  | .ldHLN _ => .main
  | .ldXYdN _ _ _ => .xd
  | .ldABC => .main
  | .ldADE => .main
  | .ldANN _ => .main
  | .ldBCA => .main
  | .ldDEA => .main
  | .ldNNA _ => .main
  | .ldAI => .ed
  | .ldAR => .ed
  | .ldIA => .ed
  | .ldRA => .ed
  | .ldPP _ _ _ => .xd
  | .ldXYHN _ _ => .xd
  | .ldXYLN _ _ => .xd
  | .ldDDNN _ _ => .main
  | .ldXYNN _ _ => .xd
  | .ldHLNN _ => .main
  | .ldDDMem _ _ => .ed
  | .ldXYMem _ _ => .xd
  | .ldNNHL _ => .main
  | .ldNNDD _ _ => .ed
  | .ldNNXY _ _ => .xd
  | .ldSPHL => .main
  | .ldSPXY _ => .xd
  | .pushQQ _ => .main
  | .pushXY _ => .xd
  | .popQQ _ => .main
  | .popXY _ => .xd
  | .exDEHL => .main
  | .exAFAF => .main
  | .exx => .main
  | .exSPHL => .main
  | .exSPXY _ => .xd
  | .ldi => .ed
  | .ldir => .ed
  | .ldd => .ed
  | .lddr => .ed
  | .cpi => .ed
  | .cpir => .ed
  | .cpd => .ed
  | .cpdr => .ed
  | .addR _ => .main
  | .addHL => .main
  | .addN _ => .main
  | .addXYd _ _ => .xd
  | .addXYH _ => .xd
  | .addXYL _ => .xd
  | .adcR _ => .main
  | .adcHL => .main
  | .adcN _ => .main
  | .adcXYd _ _ => .xd
  | .adcXYH _ => .xd
  | .adcXYL _ => .xd
  | .subR _ => .main
  | .subHL => .main
  | .subN _ => .main
  | .subXYd _ _ => .xd
  | .subXYH _ => .xd
  | .subXYL _ => .xd
  | .sbcR _ => .main
  | .sbcHL => .main
  | .sbcN _ => .main
  | .sbcXYd _ _ => .xd
  | .sbcXYH _ => .xd
  | .sbcXYL _ => .xd
  | .andR _ => .main
  | .andHL => .main
  | .andN _ => .main
  | .andXYd _ _ => .xd
  | .andXYH _ => .xd
  | .andXYL _ => .xd
  | .xorR _ => .main
  | .xorHL => .main
  | .xorN _ => .main
  | .xorXYd _ _ => .xd
  | .xorXYH _ => .xd
  | .xorXYL _ => .xd
  | .orR _ => .main
  | .orHL => .main
  | .orN _ => .main
  | .orXYd _ _ => .xd
  | .orXYH _ => .xd
  | .orXYL _ => .xd
  | .cpR _ => .main
  | .cpHL => .main
  | .cpN _ => .main
  | .cpXYd _ _ => .xd
  | .cpXYH _ => .xd
  | .cpXYL _ => .xd
  | .incR _ => .main
  | .incHL => .main
  | .incXYd _ _ => .xd
  | .incXYH _ => .xd
  | .incXYL _ => .xd
  | .decR _ => .main
  | .decHL => .main
  | .decXYd _ _ => .xd
  | .decXYH _ => .xd
  | .decXYL _ => .xd
  | .daa => .main
  | .cpl => .main
  | .neg => .ed
  | .negCopies _ => .ed
  | .ccf => .main
  | .scf => .main
  | .nop => .main
  | .halt => .main
  | .di => .main
  | .ei => .main
  | .im0 => .ed
  | .im1 => .ed
  | .im2 => .ed
  | .im0Copies _ => .ed
  | .im1Copy => .ed
  | .im2Copy => .ed
  | .edNop _ => .ed
  | .addHLSS _ => .main
  | .addXYPP _ _ => .xd
  | .adcHLSS _ => .ed
  | .sbcHLSS _ => .ed
  | .incSS _ => .main
  | .incXY _ => .xd
  | .decSS _ => .main
  | .decXY _ => .xd
  | .rlca => .main
  | .rla => .main
  | .rrca => .main
  | .rra => .main
  | .rlcR _ => .cb
  | .rlcHL => .cb
  | .rlcXYd _ _ => .xdcb
  | .rlcXYdR _ _ _ => .xdcb
  | .rrcR _ => .cb
  | .rrcHL => .cb
  | .rrcXYd _ _ => .xdcb
  | .rrcXYdR _ _ _ => .xdcb
  | .rlR _ => .cb
  | .rlHL => .cb
  | .rlXYd _ _ => .xdcb
  | .rlXYdR _ _ _ => .xdcb
  | .rrR _ => .cb
  | .rrHL => .cb
  | .rrXYd _ _ => .xdcb
  | .rrXYdR _ _ _ => .xdcb
  | .slaR _ => .cb
  | .slaHL => .cb
  | .slaXYd _ _ => .xdcb
  | .slaXYdR _ _ _ => .xdcb
  | .sraR _ => .cb
  | .sraHL => .cb
  | .sraXYd _ _ => .xdcb
  | .sraXYdR _ _ _ => .xdcb
  | .sllR _ => .cb
  | .sllHL => .cb
  | .sllXYd _ _ => .xdcb
  | .sllXYdR _ _ _ => .xdcb
  | .srlR _ => .cb
  | .srlHL => .cb
  | .srlXYd _ _ => .xdcb
  | .srlXYdR _ _ _ => .xdcb
  | .rld => .ed
  | .rrd => .ed
  | .bitBR _ _ => .cb
  | .bitBHL _ => .cb
  | .bitBXYd _ _ _ => .xdcb
  | .bitBXYdCopies _ _ _ _ => .xdcb
  | .resBR _ _ => .cb
  | .resBHL _ => .cb
  | .resBXYd _ _ _ => .xdcb
  | .resBXYdR _ _ _ _ => .xdcb
  | .setBR _ _ => .cb
  | .setBHL _ => .cb
  | .setBXYd _ _ _ => .xdcb
  | .setBXYdR _ _ _ _ => .xdcb
  | .jpNN _ => .main
  | .jpCcNN _ _ => .main
  | .jrE _ => .main
  | .jrCcE _ _ => .main
  | .jpHL => .main
  | .jpXY _ => .xd
  | .djnzE _ => .main
  | .callNN _ => .main
  | .callCcNN _ _ => .main
  | .ret => .main
  | .retCc _ => .main
  | .reti => .ed
  | .retn => .ed
  | .retnCopies _ => .ed
  | .rstP _ => .main
  | .inAN _ => .main
  | .inRC _ => .ed
  | .inFC => .ed
  | .outNA _ => .main
  | .outCR _ => .ed
  | .outC0 => .ed
  | .ini => .ed
  | .inir => .ed
  | .ind => .ed
  | .indr => .ed
  | .outi => .ed
  | .otir => .ed
  | .outd => .ed
  | .otdr => .ed
  | .prefixCB => .main
  | .prefixDD => .main
  | .prefixED => .main
  | .prefixFD => .main
  | .prefixCBAfterIndex _ => .xd
  | .indexAgain _ _ => .xd
  | .edAfterIndex _ _ => .xd
  | .indexNoEffect _ _ => .xd

end Sys2Proof
end

