-- ==== Sys2Proof/WellFormed.lean ====
section
/-! DEFINITION. Well-formed instructions: those the encoding can express as written. Every other constraint of the
encoding is already in the operand types. -/

namespace Sys2Proof

/-- H or L: the registers an index prefix replaces by index halves (rule R134, point 3). -/
def Reg8.isHL (r : Reg8) : Bool := r == .h || r == .l

/-- An index half: one side of `LD p,p'` must be one (rule R180). -/
def PReg.isHalf (p : PReg) : Bool := p == .xyh || p == .xyl

/-- The conditions `JR cc` can test (rule R394). -/
def Cond.forJR (c : Cond) : Bool := c == .nz || c == .z || c == .nc || c == .c

/-- The second bytes of `ED NOP` (rule R311). -/
def isEdNop (op : Byte) : Bool :=
  let v := op.toNat
  v ≤ 0x3F || v == 0x77 || v == 0x7F || (0x80 ≤ v && v ≤ 0x9F) || (0xA4 ≤ v && v ≤ 0xA7) || (0xAC ≤ v && v ≤ 0xAF) ||
    (0xB4 ≤ v && v ≤ 0xB7) || (0xBC ≤ v && v ≤ 0xBF) || 0xC0 ≤ v

/-- A main-table instruction that an index prefix does not change: it names neither HL nor `(HL)`, H or L, or it is
`EX DE,HL` or `EXX` (rules R134, R135). -/
def Instr.indexInert : Instr → Bool
  | .ldRR r r' => !r.isHL && !r'.isHL
  | .ldRN r _ => !r.isHL
  | .ldRHL _ => false
  | .ldRXYd _ _ _ => false
  | .ldHLR _ => false
  | .ldXYdR _ _ _ => false
  | .ldHLN _ => false
  | .ldXYdN _ _ _ => false
  | .ldABC => true
  | .ldADE => true
  | .ldANN _ => true
  | .ldBCA => true
  | .ldDEA => true
  | .ldNNA _ => true
  | .ldAI => false
  | .ldAR => false
  | .ldIA => false
  | .ldRA => false
  | .ldPP _ _ _ => false
  | .ldXYHN _ _ => false
  | .ldXYLN _ _ => false
  | .ldDDNN dd _ => dd != .hl
  | .ldXYNN _ _ => false
  | .ldHLNN _ => false
  | .ldDDMem _ _ => false
  | .ldXYMem _ _ => false
  | .ldNNHL _ => false
  | .ldNNDD _ _ => false
  | .ldNNXY _ _ => false
  | .ldSPHL => false
  | .ldSPXY _ => false
  | .pushQQ qq => qq != .hl
  | .pushXY _ => false
  | .popQQ qq => qq != .hl
  | .popXY _ => false
  | .exDEHL => true
  | .exAFAF => true
  | .exx => true
  | .exSPHL => false
  | .exSPXY _ => false
  | .ldi => false
  | .ldir => false
  | .ldd => false
  | .lddr => false
  | .cpi => false
  | .cpir => false
  | .cpd => false
  | .cpdr => false
  | .addR r => !r.isHL
  | .addHL => false
  | .addN _ => true
  | .addXYd _ _ => false
  | .addXYH _ => false
  | .addXYL _ => false
  | .adcR r => !r.isHL
  | .adcHL => false
  | .adcN _ => true
  | .adcXYd _ _ => false
  | .adcXYH _ => false
  | .adcXYL _ => false
  | .subR r => !r.isHL
  | .subHL => false
  | .subN _ => true
  | .subXYd _ _ => false
  | .subXYH _ => false
  | .subXYL _ => false
  | .sbcR r => !r.isHL
  | .sbcHL => false
  | .sbcN _ => true
  | .sbcXYd _ _ => false
  | .sbcXYH _ => false
  | .sbcXYL _ => false
  | .andR r => !r.isHL
  | .andHL => false
  | .andN _ => true
  | .andXYd _ _ => false
  | .andXYH _ => false
  | .andXYL _ => false
  | .xorR r => !r.isHL
  | .xorHL => false
  | .xorN _ => true
  | .xorXYd _ _ => false
  | .xorXYH _ => false
  | .xorXYL _ => false
  | .orR r => !r.isHL
  | .orHL => false
  | .orN _ => true
  | .orXYd _ _ => false
  | .orXYH _ => false
  | .orXYL _ => false
  | .cpR r => !r.isHL
  | .cpHL => false
  | .cpN _ => true
  | .cpXYd _ _ => false
  | .cpXYH _ => false
  | .cpXYL _ => false
  | .incR r => !r.isHL
  | .incHL => false
  | .incXYd _ _ => false
  | .incXYH _ => false
  | .incXYL _ => false
  | .decR r => !r.isHL
  | .decHL => false
  | .decXYd _ _ => false
  | .decXYH _ => false
  | .decXYL _ => false
  | .daa => true
  | .cpl => true
  | .neg => false
  | .negCopies _ => false
  | .ccf => true
  | .scf => true
  | .nop => true
  | .halt => true
  | .di => true
  | .ei => true
  | .im0 => false
  | .im1 => false
  | .im2 => false
  | .im0Copies _ => false
  | .im1Copy => false
  | .im2Copy => false
  | .edNop _ => false
  | .addHLSS _ => false
  | .addXYPP _ _ => false
  | .adcHLSS _ => false
  | .sbcHLSS _ => false
  | .incSS ss => ss != .hl
  | .incXY _ => false
  | .decSS ss => ss != .hl
  | .decXY _ => false
  | .rlca => true
  | .rla => true
  | .rrca => true
  | .rra => true
  | .rlcR _ => false
  | .rlcHL => false
  | .rlcXYd _ _ => false
  | .rlcXYdR _ _ _ => false
  | .rrcR _ => false
  | .rrcHL => false
  | .rrcXYd _ _ => false
  | .rrcXYdR _ _ _ => false
  | .rlR _ => false
  | .rlHL => false
  | .rlXYd _ _ => false
  | .rlXYdR _ _ _ => false
  | .rrR _ => false
  | .rrHL => false
  | .rrXYd _ _ => false
  | .rrXYdR _ _ _ => false
  | .slaR _ => false
  | .slaHL => false
  | .slaXYd _ _ => false
  | .slaXYdR _ _ _ => false
  | .sraR _ => false
  | .sraHL => false
  | .sraXYd _ _ => false
  | .sraXYdR _ _ _ => false
  | .sllR _ => false
  | .sllHL => false
  | .sllXYd _ _ => false
  | .sllXYdR _ _ _ => false
  | .srlR _ => false
  | .srlHL => false
  | .srlXYd _ _ => false
  | .srlXYdR _ _ _ => false
  | .rld => false
  | .rrd => false
  | .bitBR _ _ => false
  | .bitBHL _ => false
  | .bitBXYd _ _ _ => false
  | .bitBXYdCopies _ _ _ _ => false
  | .resBR _ _ => false
  | .resBHL _ => false
  | .resBXYd _ _ _ => false
  | .resBXYdR _ _ _ _ => false
  | .setBR _ _ => false
  | .setBHL _ => false
  | .setBXYd _ _ _ => false
  | .setBXYdR _ _ _ _ => false
  | .jpNN _ => true
  | .jpCcNN _ _ => true
  | .jrE _ => true
  | .jrCcE _ _ => true
  | .jpHL => false
  | .jpXY _ => false
  | .djnzE _ => true
  | .callNN _ => true
  | .callCcNN _ _ => true
  | .ret => true
  | .retCc _ => true
  | .reti => false
  | .retn => false
  | .retnCopies _ => false
  | .rstP _ => true
  | .inAN _ => true
  | .inRC _ => false
  | .inFC => false
  | .outNA _ => true
  | .outCR _ => false
  | .outC0 => false
  | .ini => false
  | .inir => false
  | .ind => false
  | .indr => false
  | .outi => false
  | .otir => false
  | .outd => false
  | .otdr => false
  | .prefixCB => false
  | .prefixDD => false
  | .prefixED => false
  | .prefixFD => false
  | .prefixCBAfterIndex _ => false
  | .indexAgain _ _ => false
  | .edAfterIndex _ _ => false
  | .indexNoEffect _ _ => false

/-- The bytes of `i` begin with an index prefix (rule R136). -/
def Instr.beginsWithIndex (i : Instr) : Bool :=
  i.table == .xd || i.table == .xdcb || i == .prefixDD || i == .prefixFD

/-- The bytes of `i` begin with `ED` and no index prefix (rule R135). -/
def Instr.beginsWithED (i : Instr) : Bool :=
  i.table == .ed || i == .prefixED

/-- The lookup of `i` is finished: its last constructor is not a prefix byte alone (rule R121). -/
def Instr.complete : Instr → Bool
  | .ldRR _ _ => true
  | .ldRN _ _ => true
  | .ldRHL _ => true
  | .ldRXYd _ _ _ => true
  | .ldHLR _ => true
  | .ldXYdR _ _ _ => true
  | .ldHLN _ => true
  | .ldXYdN _ _ _ => true
  | .ldABC => true
  | .ldADE => true
  | .ldANN _ => true
  | .ldBCA => true
  | .ldDEA => true
  | .ldNNA _ => true
  | .ldAI => true
  | .ldAR => true
  | .ldIA => true
  | .ldRA => true
  | .ldPP _ _ _ => true
  | .ldXYHN _ _ => true
  | .ldXYLN _ _ => true
  | .ldDDNN _ _ => true
  | .ldXYNN _ _ => true
  | .ldHLNN _ => true
  | .ldDDMem _ _ => true
  | .ldXYMem _ _ => true
  | .ldNNHL _ => true
  | .ldNNDD _ _ => true
  | .ldNNXY _ _ => true
  | .ldSPHL => true
  | .ldSPXY _ => true
  | .pushQQ _ => true
  | .pushXY _ => true
  | .popQQ _ => true
  | .popXY _ => true
  | .exDEHL => true
  | .exAFAF => true
  | .exx => true
  | .exSPHL => true
  | .exSPXY _ => true
  | .ldi => true
  | .ldir => true
  | .ldd => true
  | .lddr => true
  | .cpi => true
  | .cpir => true
  | .cpd => true
  | .cpdr => true
  | .addR _ => true
  | .addHL => true
  | .addN _ => true
  | .addXYd _ _ => true
  | .addXYH _ => true
  | .addXYL _ => true
  | .adcR _ => true
  | .adcHL => true
  | .adcN _ => true
  | .adcXYd _ _ => true
  | .adcXYH _ => true
  | .adcXYL _ => true
  | .subR _ => true
  | .subHL => true
  | .subN _ => true
  | .subXYd _ _ => true
  | .subXYH _ => true
  | .subXYL _ => true
  | .sbcR _ => true
  | .sbcHL => true
  | .sbcN _ => true
  | .sbcXYd _ _ => true
  | .sbcXYH _ => true
  | .sbcXYL _ => true
  | .andR _ => true
  | .andHL => true
  | .andN _ => true
  | .andXYd _ _ => true
  | .andXYH _ => true
  | .andXYL _ => true
  | .xorR _ => true
  | .xorHL => true
  | .xorN _ => true
  | .xorXYd _ _ => true
  | .xorXYH _ => true
  | .xorXYL _ => true
  | .orR _ => true
  | .orHL => true
  | .orN _ => true
  | .orXYd _ _ => true
  | .orXYH _ => true
  | .orXYL _ => true
  | .cpR _ => true
  | .cpHL => true
  | .cpN _ => true
  | .cpXYd _ _ => true
  | .cpXYH _ => true
  | .cpXYL _ => true
  | .incR _ => true
  | .incHL => true
  | .incXYd _ _ => true
  | .incXYH _ => true
  | .incXYL _ => true
  | .decR _ => true
  | .decHL => true
  | .decXYd _ _ => true
  | .decXYH _ => true
  | .decXYL _ => true
  | .daa => true
  | .cpl => true
  | .neg => true
  | .negCopies _ => true
  | .ccf => true
  | .scf => true
  | .nop => true
  | .halt => true
  | .di => true
  | .ei => true
  | .im0 => true
  | .im1 => true
  | .im2 => true
  | .im0Copies _ => true
  | .im1Copy => true
  | .im2Copy => true
  | .edNop _ => true
  | .addHLSS _ => true
  | .addXYPP _ _ => true
  | .adcHLSS _ => true
  | .sbcHLSS _ => true
  | .incSS _ => true
  | .incXY _ => true
  | .decSS _ => true
  | .decXY _ => true
  | .rlca => true
  | .rla => true
  | .rrca => true
  | .rra => true
  | .rlcR _ => true
  | .rlcHL => true
  | .rlcXYd _ _ => true
  | .rlcXYdR _ _ _ => true
  | .rrcR _ => true
  | .rrcHL => true
  | .rrcXYd _ _ => true
  | .rrcXYdR _ _ _ => true
  | .rlR _ => true
  | .rlHL => true
  | .rlXYd _ _ => true
  | .rlXYdR _ _ _ => true
  | .rrR _ => true
  | .rrHL => true
  | .rrXYd _ _ => true
  | .rrXYdR _ _ _ => true
  | .slaR _ => true
  | .slaHL => true
  | .slaXYd _ _ => true
  | .slaXYdR _ _ _ => true
  | .sraR _ => true
  | .sraHL => true
  | .sraXYd _ _ => true
  | .sraXYdR _ _ _ => true
  | .sllR _ => true
  | .sllHL => true
  | .sllXYd _ _ => true
  | .sllXYdR _ _ _ => true
  | .srlR _ => true
  | .srlHL => true
  | .srlXYd _ _ => true
  | .srlXYdR _ _ _ => true
  | .rld => true
  | .rrd => true
  | .bitBR _ _ => true
  | .bitBHL _ => true
  | .bitBXYd _ _ _ => true
  | .bitBXYdCopies _ _ _ _ => true
  | .resBR _ _ => true
  | .resBHL _ => true
  | .resBXYd _ _ _ => true
  | .resBXYdR _ _ _ _ => true
  | .setBR _ _ => true
  | .setBHL _ => true
  | .setBXYd _ _ _ => true
  | .setBXYdR _ _ _ _ => true
  | .jpNN _ => true
  | .jpCcNN _ _ => true
  | .jrE _ => true
  | .jrCcE _ _ => true
  | .jpHL => true
  | .jpXY _ => true
  | .djnzE _ => true
  | .callNN _ => true
  | .callCcNN _ _ => true
  | .ret => true
  | .retCc _ => true
  | .reti => true
  | .retn => true
  | .retnCopies _ => true
  | .rstP _ => true
  | .inAN _ => true
  | .inRC _ => true
  | .inFC => true
  | .outNA _ => true
  | .outCR _ => true
  | .outC0 => true
  | .ini => true
  | .inir => true
  | .ind => true
  | .indr => true
  | .outi => true
  | .otir => true
  | .outd => true
  | .otdr => true
  | .prefixCB => false
  | .prefixDD => false
  | .prefixED => false
  | .prefixFD => false
  | .prefixCBAfterIndex _ => false
  | .indexAgain _ i => i.complete
  | .edAfterIndex _ i => i.complete
  | .indexNoEffect _ i => i.complete

/-- Well-formedness (rules R134 to R138, R180, R302, R309, R311, R373, R394, R409). -/
def Instr.wf : Instr → Bool
  | .ldRR _ _ => true
  | .ldRN _ _ => true
  | .ldRHL _ => true
  | .ldRXYd _ _ _ => true
  | .ldHLR _ => true
  | .ldXYdR _ _ _ => true
  | .ldHLN _ => true
  | .ldXYdN _ _ _ => true
  | .ldABC => true
  | .ldADE => true
  | .ldANN _ => true
  | .ldBCA => true
  | .ldDEA => true
  | .ldNNA _ => true
  | .ldAI => true
  | .ldAR => true
  | .ldIA => true
  | .ldRA => true
  | .ldPP _ p p' => p.isHalf || p'.isHalf
  | .ldXYHN _ _ => true
  | .ldXYLN _ _ => true
  | .ldDDNN _ _ => true
  | .ldXYNN _ _ => true
  | .ldHLNN _ => true
  | .ldDDMem _ _ => true
  | .ldXYMem _ _ => true
  | .ldNNHL _ => true
  | .ldNNDD _ _ => true
  | .ldNNXY _ _ => true
  | .ldSPHL => true
  | .ldSPXY _ => true
  | .pushQQ _ => true
  | .pushXY _ => true
  | .popQQ _ => true
  | .popXY _ => true
  | .exDEHL => true
  | .exAFAF => true
  | .exx => true
  | .exSPHL => true
  | .exSPXY _ => true
  | .ldi => true
  | .ldir => true
  | .ldd => true
  | .lddr => true
  | .cpi => true
  | .cpir => true
  | .cpd => true
  | .cpdr => true
  | .addR _ => true
  | .addHL => true
  | .addN _ => true
  | .addXYd _ _ => true
  | .addXYH _ => true
  | .addXYL _ => true
  | .adcR _ => true
  | .adcHL => true
  | .adcN _ => true
  | .adcXYd _ _ => true
  | .adcXYH _ => true
  | .adcXYL _ => true
  | .subR _ => true
  | .subHL => true
  | .subN _ => true
  | .subXYd _ _ => true
  | .subXYH _ => true
  | .subXYL _ => true
  | .sbcR _ => true
  | .sbcHL => true
  | .sbcN _ => true
  | .sbcXYd _ _ => true
  | .sbcXYH _ => true
  | .sbcXYL _ => true
  | .andR _ => true
  | .andHL => true
  | .andN _ => true
  | .andXYd _ _ => true
  | .andXYH _ => true
  | .andXYL _ => true
  | .xorR _ => true
  | .xorHL => true
  | .xorN _ => true
  | .xorXYd _ _ => true
  | .xorXYH _ => true
  | .xorXYL _ => true
  | .orR _ => true
  | .orHL => true
  | .orN _ => true
  | .orXYd _ _ => true
  | .orXYH _ => true
  | .orXYL _ => true
  | .cpR _ => true
  | .cpHL => true
  | .cpN _ => true
  | .cpXYd _ _ => true
  | .cpXYH _ => true
  | .cpXYL _ => true
  | .incR _ => true
  | .incHL => true
  | .incXYd _ _ => true
  | .incXYH _ => true
  | .incXYL _ => true
  | .decR _ => true
  | .decHL => true
  | .decXYd _ _ => true
  | .decXYH _ => true
  | .decXYL _ => true
  | .daa => true
  | .cpl => true
  | .neg => true
  | .negCopies y => y != 0
  | .ccf => true
  | .scf => true
  | .nop => true
  | .halt => true
  | .di => true
  | .ei => true
  | .im0 => true
  | .im1 => true
  | .im2 => true
  | .im0Copies y => y == 1 || y == 4 || y == 5
  | .im1Copy => true
  | .im2Copy => true
  | .edNop op => isEdNop op
  | .addHLSS _ => true
  | .addXYPP _ _ => true
  | .adcHLSS _ => true
  | .sbcHLSS _ => true
  | .incSS _ => true
  | .incXY _ => true
  | .decSS _ => true
  | .decXY _ => true
  | .rlca => true
  | .rla => true
  | .rrca => true
  | .rra => true
  | .rlcR _ => true
  | .rlcHL => true
  | .rlcXYd _ _ => true
  | .rlcXYdR _ _ _ => true
  | .rrcR _ => true
  | .rrcHL => true
  | .rrcXYd _ _ => true
  | .rrcXYdR _ _ _ => true
  | .rlR _ => true
  | .rlHL => true
  | .rlXYd _ _ => true
  | .rlXYdR _ _ _ => true
  | .rrR _ => true
  | .rrHL => true
  | .rrXYd _ _ => true
  | .rrXYdR _ _ _ => true
  | .slaR _ => true
  | .slaHL => true
  | .slaXYd _ _ => true
  | .slaXYdR _ _ _ => true
  | .sraR _ => true
  | .sraHL => true
  | .sraXYd _ _ => true
  | .sraXYdR _ _ _ => true
  | .sllR _ => true
  | .sllHL => true
  | .sllXYd _ _ => true
  | .sllXYdR _ _ _ => true
  | .srlR _ => true
  | .srlHL => true
  | .srlXYd _ _ => true
  | .srlXYdR _ _ _ => true
  | .rld => true
  | .rrd => true
  | .bitBR _ _ => true
  | .bitBHL _ => true
  | .bitBXYd _ _ _ => true
  | .bitBXYdCopies _ _ _ z => z != 6
  | .resBR _ _ => true
  | .resBHL _ => true
  | .resBXYd _ _ _ => true
  | .resBXYdR _ _ _ _ => true
  | .setBR _ _ => true
  | .setBHL _ => true
  | .setBXYd _ _ _ => true
  | .setBXYdR _ _ _ _ => true
  | .jpNN _ => true
  | .jpCcNN _ _ => true
  | .jrE _ => true
  | .jrCcE cc _ => cc.forJR
  | .jpHL => true
  | .jpXY _ => true
  | .djnzE _ => true
  | .callNN _ => true
  | .callCcNN _ _ => true
  | .ret => true
  | .retCc _ => true
  | .reti => true
  | .retn => true
  | .retnCopies y => y != 0 && y != 1
  | .rstP _ => true
  | .inAN _ => true
  | .inRC _ => true
  | .inFC => true
  | .outNA _ => true
  | .outCR _ => true
  | .outC0 => true
  | .ini => true
  | .inir => true
  | .ind => true
  | .indr => true
  | .outi => true
  | .otir => true
  | .outd => true
  | .otdr => true
  | .prefixCB => true
  | .prefixDD => true
  | .prefixED => true
  | .prefixFD => true
  | .prefixCBAfterIndex _ => true
  | .indexAgain _ i => i.beginsWithIndex && i.wf
  | .edAfterIndex _ i => i.beginsWithED && i.wf
  | .indexNoEffect _ i => i.indexInert && i.wf

end Sys2Proof
end

