-- ==== Sys2Proof/Decode.lean ====
section
/-! DEFINITION. The encoding of rules R120 to R137 in both directions: the decoder, total on any bytes, and the encoder,
written from the same code tables. The Z80 has no invalid opcode (rule R122); the decoder rejects only bytes that end before
the instruction does. -/

namespace Sys2Proof

/-! ## Bytes and fields -/

/-- The low byte of a word (rule R9). -/
def lo8 (w : Word) : Byte := w.extractLsb' 0 8

/-- The high byte of a word (rule R9). -/
def hi8 (w : Word) : Byte := w.extractLsb' 8 8

/-- `h:l`, concatenation (rule R9). -/
def joinBytes (h l : Byte) : Word := h ++ l

/-- `sext_8` as a word to add (rule R11). -/
def sext8 (d : Byte) : Word := d.signExtend 16

/-- The opcode byte with fields `x`, `y`, `z` (rule R123). -/
def opByte (x : BitVec 2) (y z : Bits3) : Byte := x ++ y ++ z

/-- The opcode byte with fields `x`, `p`, `q`, `z` (rule R123). -/
def pairByte (x p : BitVec 2) (q : BitVec 1) (z : Bits3) : Byte := x ++ p ++ q ++ z

/-- Field `x = op[7:6]` (rule R123). -/
def fieldX (op : Byte) : Nat := (op.extractLsb' 6 2).toNat

/-- Field `y = op[5:3]` (rule R123). -/
def fieldY (op : Byte) : Bits3 := op.extractLsb' 3 3

/-- Field `z = op[2:0]` (rule R123). -/
def fieldZ (op : Byte) : Bits3 := op.extractLsb' 0 3

/-- Field `p = op[5:4]` (rule R123). -/
def fieldP (op : Byte) : BitVec 2 := op.extractLsb' 4 2

/-- Field `q = op[3]` (rule R123). -/
def fieldQ (op : Byte) : Bool := op.getLsbD 3

/-! ## Code tables -/

/-- Rule R124. -/
def Reg8.code : Reg8 → Bits3
  | .b => 0 | .c => 1 | .d => 2 | .e => 3 | .h => 4 | .l => 5 | .a => 7

/-- Rule R124: code 110 is no register. -/
def Reg8.ofCode (c : Bits3) : Option Reg8 :=
  match c.toNat with
  | 0 => some .b | 1 => some .c | 2 => some .d | 3 => some .e | 4 => some .h | 5 => some .l | 7 => some .a | _ => none

/-- Rule R180: the codes of `LD p,p'`. -/
def PReg.code : PReg → Bits3
  | .b => 0 | .c => 1 | .d => 2 | .e => 3 | .xyh => 4 | .xyl => 5 | .a => 7

/-- Rule R180. -/
def PReg.ofCode (c : Bits3) : Option PReg :=
  match c.toNat with
  | 0 => some .b | 1 => some .c | 2 => some .d | 3 => some .e | 4 => some .xyh | 5 => some .xyl | 7 => some .a | _ => none

/-- Rule R125, column dd / ss. -/
def PairDD.code : PairDD → BitVec 2
  | .bc => 0 | .de => 1 | .hl => 2 | .sp => 3

/-- Rule R125, column dd / ss. -/
def PairDD.ofCode (c : BitVec 2) : PairDD :=
  match c.toNat with
  | 0 => .bc | 1 => .de | 2 => .hl | _ => .sp

/-- Rule R125, column qq. -/
def PairQQ.code : PairQQ → BitVec 2
  | .bc => 0 | .de => 1 | .hl => 2 | .af => 3

/-- Rule R125, column qq. -/
def PairQQ.ofCode (c : BitVec 2) : PairQQ :=
  match c.toNat with
  | 0 => .bc | 1 => .de | 2 => .hl | _ => .af

/-- Rule R125, columns pp and rr. -/
def PairPP.code : PairPP → BitVec 2
  | .bc => 0 | .de => 1 | .xy => 2 | .sp => 3

/-- Rule R125, columns pp and rr. -/
def PairPP.ofCode (c : BitVec 2) : PairPP :=
  match c.toNat with
  | 0 => .bc | 1 => .de | 2 => .xy | _ => .sp

/-- Rule R32. -/
def Cond.code : Cond → Bits3
  | .nz => 0 | .z => 1 | .nc => 2 | .c => 3 | .po => 4 | .pe => 5 | .p => 6 | .m => 7

/-- Rule R32. -/
def Cond.ofCode (c : Bits3) : Cond :=
  match c.toNat with
  | 0 => .nz | 1 => .z | 2 => .nc | 3 => .c | 4 => .po | 5 => .pe | 6 => .p | _ => .m

/-- The index prefix byte (rule R120). -/
def XY.code : XY → Byte
  | .ix => 0xDD | .iy => 0xFD

/-- The index register an index prefix byte selects (rule R120). -/
def indexOf (op : Byte) : Option XY :=
  if op = 0xDD then some .ix else if op = 0xFD then some .iy else none

/-! ## The decoder -/

/-- Why the decoder rejects a byte string: it ends inside the instruction. -/
inductive DecodeError where
  | outOfBytes
  deriving DecidableEq, Repr

/-- What the decoder answers: the instruction and the bytes after it. -/
abbrev Decoded := Except DecodeError (Instr × List Byte)

/-- An instruction with one operand byte `n`, `d` or `e` (rule R127). -/
def withByte (f : Byte → Instr) : List Byte → Decoded
  | n :: rest => .ok (f n, rest)
  | [] => .error .outOfBytes

/-- An instruction with an operand word `nn`, low byte first (rule R127). -/
def withWord (f : Word → Instr) : List Byte → Decoded
  | l :: h :: rest => .ok (f (joinBytes h l), rest)
  | _ => .error .outOfBytes

/-- An instruction with a displacement, then an immediate (rule R120, format `XD OP d n`). -/
def withTwoBytes (f : Byte → Byte → Instr) : List Byte → Decoded
  | d :: n :: rest => .ok (f d n, rest)
  | _ => .error .outOfBytes

/-- Puts an index prefix in front of a decoded instruction. -/
def wrapDecoded (f : Instr → Instr) : Decoded → Decoded
  | .ok (i, rest) => .ok (f i, rest)
  | .error e => .error e

/-- ALU operation `ooo` on a register (rule R126). -/
def aluReg (o : Bits3) (r : Reg8) : Instr :=
  match o.toNat with
  | 0 => .addR r | 1 => .adcR r | 2 => .subR r | 3 => .sbcR r | 4 => .andR r | 5 => .xorR r | 6 => .orR r | _ => .cpR r

/-- ALU operation `ooo` on `(HL)` (rule R126). -/
def aluHL (o : Bits3) : Instr :=
  match o.toNat with
  | 0 => .addHL | 1 => .adcHL | 2 => .subHL | 3 => .sbcHL | 4 => .andHL | 5 => .xorHL | 6 => .orHL | _ => .cpHL

/-- ALU operation `ooo` on an immediate (rule R126). -/
def aluImm (o : Bits3) (n : Byte) : Instr :=
  match o.toNat with
  | 0 => .addN n | 1 => .adcN n | 2 => .subN n | 3 => .sbcN n | 4 => .andN n | 5 => .xorN n | 6 => .orN n | _ => .cpN n

/-- ALU operation `ooo` on `(XY+d)` (rule R126). -/
def aluXYd (o : Bits3) (xy : XY) (d : Byte) : Instr :=
  match o.toNat with
  | 0 => .addXYd xy d | 1 => .adcXYd xy d | 2 => .subXYd xy d | 3 => .sbcXYd xy d
  | 4 => .andXYd xy d | 5 => .xorXYd xy d | 6 => .orXYd xy d | _ => .cpXYd xy d

/-- ALU operation `ooo` on `XYH` (rule R266). -/
def aluXYH (o : Bits3) (xy : XY) : Instr :=
  match o.toNat with
  | 0 => .addXYH xy | 1 => .adcXYH xy | 2 => .subXYH xy | 3 => .sbcXYH xy
  | 4 => .andXYH xy | 5 => .xorXYH xy | 6 => .orXYH xy | _ => .cpXYH xy

/-- ALU operation `ooo` on `XYL` (rule R266). -/
def aluXYL (o : Bits3) (xy : XY) : Instr :=
  match o.toNat with
  | 0 => .addXYL xy | 1 => .adcXYL xy | 2 => .subXYL xy | 3 => .sbcXYL xy
  | 4 => .andXYL xy | 5 => .xorXYL xy | 6 => .orXYL xy | _ => .cpXYL xy

/-- Rotate or shift `ooo` on a register (rule R126). -/
def shiftR (o : Bits3) (r : Reg8) : Instr :=
  match o.toNat with
  | 0 => .rlcR r | 1 => .rrcR r | 2 => .rlR r | 3 => .rrR r | 4 => .slaR r | 5 => .sraR r | 6 => .sllR r | _ => .srlR r

/-- Rotate or shift `ooo` on `(HL)` (rule R126). -/
def shiftHL (o : Bits3) : Instr :=
  match o.toNat with
  | 0 => .rlcHL | 1 => .rrcHL | 2 => .rlHL | 3 => .rrHL | 4 => .slaHL | 5 => .sraHL | 6 => .sllHL | _ => .srlHL

/-- Rotate or shift `ooo` on `(XY+d)` (rule R137). -/
def shiftXYd (o : Bits3) (xy : XY) (d : Byte) : Instr :=
  match o.toNat with
  | 0 => .rlcXYd xy d | 1 => .rrcXYd xy d | 2 => .rlXYd xy d | 3 => .rrXYd xy d
  | 4 => .slaXYd xy d | 5 => .sraXYd xy d | 6 => .sllXYd xy d | _ => .srlXYd xy d

/-- Rotate or shift `ooo` on `(XY+d)` with a copy to a register (rule R137). -/
def shiftXYdR (o : Bits3) (xy : XY) (d : Byte) (r : Reg8) : Instr :=
  match o.toNat with
  | 0 => .rlcXYdR xy d r | 1 => .rrcXYdR xy d r | 2 => .rlXYdR xy d r | 3 => .rrXYdR xy d r
  | 4 => .slaXYdR xy d r | 5 => .sraXYdR xy d r | 6 => .sllXYdR xy d r | _ => .srlXYdR xy d r

/-- The main table, quarter `x = 0` (rule R131). -/
def decodeMain0 (op : Byte) (rest : List Byte) : Decoded :=
  let y := fieldY op
  let dd := PairDD.ofCode (fieldP op)
  match (fieldZ op).toNat with
  | 0 => match y.toNat with
    | 0 => .ok (.nop, rest)
    | 1 => .ok (.exAFAF, rest)
    | 2 => withByte .djnzE rest
    | 3 => withByte .jrE rest
    | _ => withByte (.jrCcE (Cond.ofCode (y - 4))) rest
  | 1 => if fieldQ op then .ok (.addHLSS dd, rest) else withWord (.ldDDNN dd) rest
  | 2 => match y.toNat with
    | 0 => .ok (.ldBCA, rest)
    | 1 => .ok (.ldABC, rest)
    | 2 => .ok (.ldDEA, rest)
    | 3 => .ok (.ldADE, rest)
    | 4 => withWord .ldNNHL rest
    | 5 => withWord .ldHLNN rest
    | 6 => withWord .ldNNA rest
    | _ => withWord .ldANN rest
  | 3 => .ok (if fieldQ op then .decSS dd else .incSS dd, rest)
  | 4 => .ok (match Reg8.ofCode y with | some r => .incR r | none => .incHL, rest)
  | 5 => .ok (match Reg8.ofCode y with | some r => .decR r | none => .decHL, rest)
  | 6 => match Reg8.ofCode y with
    | some r => withByte (.ldRN r) rest
    | none => withByte .ldHLN rest
  | _ => .ok (match y.toNat with
    | 0 => .rlca | 1 => .rrca | 2 => .rla | 3 => .rra | 4 => .daa | 5 => .cpl | 6 => .scf | _ => .ccf, rest)

/-- The main table, quarter `x = 3`, less the prefix bytes, which `decode` looks at first (rule R131). -/
def decodeMain3 (op : Byte) (rest : List Byte) : Decoded :=
  let y := fieldY op
  let cc := Cond.ofCode y
  let qq := PairQQ.ofCode (fieldP op)
  match (fieldZ op).toNat with
  | 0 => .ok (.retCc cc, rest)
  | 1 => if fieldQ op then
      .ok (match (fieldP op).toNat with | 0 => .ret | 1 => .exx | 2 => .jpHL | _ => .ldSPHL, rest)
    else .ok (.popQQ qq, rest)
  | 2 => withWord (.jpCcNN cc) rest
  | 3 => match y.toNat with
    | 0 => withWord .jpNN rest
    | 1 => .ok (.prefixCB, rest)
    | 2 => withByte .outNA rest
    | 3 => withByte .inAN rest
    | 4 => .ok (.exSPHL, rest)
    | 5 => .ok (.exDEHL, rest)
    | 6 => .ok (.di, rest)
    | _ => .ok (.ei, rest)
  | 4 => withWord (.callCcNN cc) rest
  | 5 => if fieldQ op then
      match (fieldP op).toNat with
      | 0 => withWord .callNN rest
      | 1 => .ok (.prefixDD, rest)
      | 2 => .ok (.prefixED, rest)
      | _ => .ok (.prefixFD, rest)
    else .ok (.pushQQ qq, rest)
  | 6 => withByte (aluImm y) rest
  | _ => .ok (.rstP y, rest)

/-- The main table (rule R131). -/
def decodeMain (op : Byte) (rest : List Byte) : Decoded :=
  match fieldX op with
  | 0 => decodeMain0 op rest
  | 1 => .ok (match Reg8.ofCode (fieldY op), Reg8.ofCode (fieldZ op) with
    | some r, some r' => .ldRR r r'
    | some r, none => .ldRHL r
    | none, some r' => .ldHLR r'
    | none, none => .halt, rest)
  | 2 => .ok (match Reg8.ofCode (fieldZ op) with
    | some r => aluReg (fieldY op) r
    | none => aluHL (fieldY op), rest)
  | _ => decodeMain3 op rest

/-- An entry of the CB table (rule R132). -/
def cbEntry (op : Byte) : Instr :=
  let y := fieldY op
  match fieldX op, Reg8.ofCode (fieldZ op) with
  | 0, some r => shiftR y r
  | 0, none => shiftHL y
  | 1, some r => .bitBR y r
  | 1, none => .bitBHL y
  | 2, some r => .resBR y r
  | 2, none => .resBHL y
  | _, some r => .setBR y r
  | _, none => .setBHL y

/-- After the byte `CB` without an index prefix (rules R121, R132). -/
def decodeCB : List Byte → Decoded
  | op :: rest => .ok (cbEntry op, rest)
  | [] => .ok (.prefixCB, [])

/-- Row `y`, column `z = 7` of the ED table (rule R133). -/
def edControl (op : Byte) : Instr :=
  match (fieldY op).toNat with
  | 0 => .ldIA | 1 => .ldRA | 2 => .ldAI | 3 => .ldAR | 4 => .rrd | 5 => .rld | _ => .edNop op

/-- Column `z = 6` of the ED table: `IM <- [0, 0, 1, 2][y mod 4]`, the documented opcodes and their copies
(rules R133, R309). -/
def edIM (y : Bits3) : Instr :=
  match y.toNat with
  | 0 => .im0 | 2 => .im1 | 3 => .im2 | 6 => .im1Copy | 7 => .im2Copy | _ => .im0Copies y

/-- The sixteen block instructions of the ED table; every other entry of 0x80 to 0xBF is `ED NOP` (rule R133). -/
def edBlock (op : Byte) : Instr :=
  match op.toNat with
  | 0xA0 => .ldi | 0xA1 => .cpi | 0xA2 => .ini | 0xA3 => .outi
  | 0xA8 => .ldd | 0xA9 => .cpd | 0xAA => .ind | 0xAB => .outd
  | 0xB0 => .ldir | 0xB1 => .cpir | 0xB2 => .inir | 0xB3 => .otir
  | 0xB8 => .lddr | 0xB9 => .cpdr | 0xBA => .indr | 0xBB => .otdr
  | _ => .edNop op

/-- The ED table (rule R133). -/
def edEntry (op : Byte) (rest : List Byte) : Decoded :=
  let y := fieldY op
  let dd := PairDD.ofCode (fieldP op)
  match fieldX op with
  | 1 => match (fieldZ op).toNat with
    | 0 => .ok (match Reg8.ofCode y with | some r => .inRC r | none => .inFC, rest)
    | 1 => .ok (match Reg8.ofCode y with | some r => .outCR r | none => .outC0, rest)
    | 2 => .ok (if fieldQ op then .adcHLSS dd else .sbcHLSS dd, rest)
    | 3 => if fieldQ op then withWord (.ldDDMem dd) rest else withWord (fun nn => .ldNNDD nn dd) rest
    | 4 => .ok (if y = 0 then .neg else .negCopies y, rest)
    | 5 => .ok (if y = 0 then .retn else if y = 1 then .reti else .retnCopies y, rest)
    | 6 => .ok (edIM y, rest)
    | _ => .ok (edControl op, rest)
  | 2 => .ok (edBlock op, rest)
  | _ => .ok (.edNop op, rest)

/-- After the byte `ED` (rule R121). -/
def decodeED : List Byte → Decoded
  | op :: rest => edEntry op rest
  | [] => .ok (.prefixED, [])

/-- An entry of the table after an index prefix and `CB` (rule R137). -/
def xdcbEntry (xy : XY) (d op : Byte) : Instr :=
  let y := fieldY op
  match fieldX op, Reg8.ofCode (fieldZ op) with
  | 0, none => shiftXYd y xy d
  | 0, some r => shiftXYdR y xy d r
  | 1, none => .bitBXYd xy d y
  | 1, some _ => .bitBXYdCopies xy d y (fieldZ op)
  | 2, none => .resBXYd xy d y
  | 2, some r => .resBXYdR xy d y r
  | _, none => .setBXYd xy d y
  | _, some r => .setBXYdR xy d y r

/-- After an index prefix and `CB` (rules R121, R137): the displacement, then the opcode. -/
def decodeXDCB (xy : XY) : List Byte → Decoded
  | d :: op :: rest => .ok (xdcbEntry xy d op, rest)
  | [_] => .error .outOfBytes
  | [] => .ok (.prefixCBAfterIndex xy, [])

/-- The opcodes an index prefix changes (rule R135); `none` for every other. -/
def xdEntry (xy : XY) (op : Byte) (rest : List Byte) : Option Decoded :=
  let y := fieldY op
  let z := (fieldZ op).toNat
  match fieldX op with
  | 0 => match z with
    | 1 => if fieldQ op then some (.ok (.addXYPP xy (PairPP.ofCode (fieldP op)), rest))
      else if fieldP op = 2 then some (withWord (.ldXYNN xy) rest) else none
    | 2 => match y.toNat with
      | 4 => some (withWord (.ldNNXY xy) rest)
      | 5 => some (withWord (.ldXYMem xy) rest)
      | _ => none
    | 3 => match y.toNat with
      | 4 => some (.ok (.incXY xy, rest))
      | 5 => some (.ok (.decXY xy, rest))
      | _ => none
    | 4 => match y.toNat with
      | 4 => some (.ok (.incXYH xy, rest))
      | 5 => some (.ok (.incXYL xy, rest))
      | 6 => some (withByte (.incXYd xy) rest)
      | _ => none
    | 5 => match y.toNat with
      | 4 => some (.ok (.decXYH xy, rest))
      | 5 => some (.ok (.decXYL xy, rest))
      | 6 => some (withByte (.decXYd xy) rest)
      | _ => none
    | 6 => match y.toNat with
      | 4 => some (withByte (.ldXYHN xy) rest)
      | 5 => some (withByte (.ldXYLN xy) rest)
      | 6 => some (withTwoBytes (.ldXYdN xy) rest)
      | _ => none
    | _ => none
  | 1 => match PReg.ofCode y, PReg.ofCode (fieldZ op) with
    | none, none => none
    | none, some _ => match Reg8.ofCode (fieldZ op) with
      | some r => some (withByte (.ldXYdR xy r) rest)
      | none => none
    | some _, none => match Reg8.ofCode y with
      | some r => some (withByte (.ldRXYd xy r) rest)
      | none => none
    | some p, some p' => if p.isHalf || p'.isHalf then some (.ok (.ldPP xy p p', rest)) else none
  | 2 => match z with
    | 4 => some (.ok (aluXYH y xy, rest))
    | 5 => some (.ok (aluXYL y xy, rest))
    | 6 => some (withByte (aluXYd y xy) rest)
    | _ => none
  | _ => match op.toNat with
    | 0xE1 => some (.ok (.popXY xy, rest))
    | 0xE3 => some (.ok (.exSPXY xy, rest))
    | 0xE5 => some (.ok (.pushXY xy, rest))
    | 0xE9 => some (.ok (.jpXY xy, rest))
    | 0xF9 => some (.ok (.ldSPXY xy, rest))
    | _ => none

/-- The prefix byte of an index register, alone. -/
def prefixOf : XY → Instr
  | .ix => .prefixDD
  | .iy => .prefixFD

/-- After an index prefix: the prefix loop of rule R121, the last prefix wins (rule R136). -/
def decodeIndexed : XY → List Byte → Decoded
  | xy, [] => .ok (prefixOf xy, [])
  | xy, op :: rest =>
    match indexOf op with
    | some xy' => wrapDecoded (.indexAgain xy) (decodeIndexed xy' rest)
    | none =>
      if op = 0xED then wrapDecoded (.edAfterIndex xy) (decodeED rest)
      else if op = 0xCB then decodeXDCB xy rest
      else match xdEntry xy op rest with
        | some r => r
        | none => wrapDecoded (.indexNoEffect xy) (decodeMain op rest)

/-- The decoder (rule R121): the instruction at the front of the bytes, and the bytes after it. A byte string that ends
after a prefix gives that prefix's row, whose lookup is unfinished. -/
def decode : List Byte → Decoded
  | [] => .error .outOfBytes
  | op :: rest =>
    match indexOf op with
    | some xy => decodeIndexed xy rest
    | none =>
      if op = 0xED then decodeED rest
      else if op = 0xCB then decodeCB rest
      else decodeMain op rest

/-! ## The encoder -/

/-- The bytes of an instruction, in the order of rule R120. -/
def Instr.encode : Instr → List Byte
  | .ldRR r r' => [opByte 1 r.code r'.code]
  | .ldRN r n => [opByte 0 r.code 6, n]
  | .ldRHL r => [opByte 1 r.code 6]
  | .ldRXYd xy r d => [xy.code, opByte 1 r.code 6, d]
  | .ldHLR r => [opByte 1 6 r.code]
  | .ldXYdR xy r d => [xy.code, opByte 1 6 r.code, d]
  | .ldHLN n => [0x36, n]
  | .ldXYdN xy d n => [xy.code, 0x36, d, n]
  | .ldABC => [0x0A]
  | .ldADE => [0x1A]
  | .ldANN nn => [0x3A, lo8 nn, hi8 nn]
  | .ldBCA => [0x02]
  | .ldDEA => [0x12]
  | .ldNNA nn => [0x32, lo8 nn, hi8 nn]
  | .ldAI => [0xED, 0x57]
  | .ldAR => [0xED, 0x5F]
  | .ldIA => [0xED, 0x47]
  | .ldRA => [0xED, 0x4F]
  | .ldPP xy p p' => [xy.code, opByte 1 p.code p'.code]
  | .ldXYHN xy n => [xy.code, 0x26, n]
  | .ldXYLN xy n => [xy.code, 0x2E, n]
  | .ldDDNN dd nn => [pairByte 0 dd.code 0 1, lo8 nn, hi8 nn]
  | .ldXYNN xy nn => [xy.code, 0x21, lo8 nn, hi8 nn]
  | .ldHLNN nn => [0x2A, lo8 nn, hi8 nn]
  | .ldDDMem dd nn => [0xED, pairByte 1 dd.code 1 3, lo8 nn, hi8 nn]
  | .ldXYMem xy nn => [xy.code, 0x2A, lo8 nn, hi8 nn]
  | .ldNNHL nn => [0x22, lo8 nn, hi8 nn]
  | .ldNNDD nn dd => [0xED, pairByte 1 dd.code 0 3, lo8 nn, hi8 nn]
  | .ldNNXY xy nn => [xy.code, 0x22, lo8 nn, hi8 nn]
  | .ldSPHL => [0xF9]
  | .ldSPXY xy => [xy.code, 0xF9]
  | .pushQQ qq => [pairByte 3 qq.code 0 5]
  | .pushXY xy => [xy.code, 0xE5]
  | .popQQ qq => [pairByte 3 qq.code 0 1]
  | .popXY xy => [xy.code, 0xE1]
  | .exDEHL => [0xEB]
  | .exAFAF => [0x08]
  | .exx => [0xD9]
  | .exSPHL => [0xE3]
  | .exSPXY xy => [xy.code, 0xE3]
  | .ldi => [0xED, 0xA0]
  | .ldir => [0xED, 0xB0]
  | .ldd => [0xED, 0xA8]
  | .lddr => [0xED, 0xB8]
  | .cpi => [0xED, 0xA1]
  | .cpir => [0xED, 0xB1]
  | .cpd => [0xED, 0xA9]
  | .cpdr => [0xED, 0xB9]
  | .addR r => [opByte 2 0 r.code]
  | .addHL => [opByte 2 0 6]
  | .addN n => [opByte 3 0 6, n]
  | .addXYd xy d => [xy.code, opByte 2 0 6, d]
  | .addXYH xy => [xy.code, opByte 2 0 4]
  | .addXYL xy => [xy.code, opByte 2 0 5]
  | .adcR r => [opByte 2 1 r.code]
  | .adcHL => [opByte 2 1 6]
  | .adcN n => [opByte 3 1 6, n]
  | .adcXYd xy d => [xy.code, opByte 2 1 6, d]
  | .adcXYH xy => [xy.code, opByte 2 1 4]
  | .adcXYL xy => [xy.code, opByte 2 1 5]
  | .subR r => [opByte 2 2 r.code]
  | .subHL => [opByte 2 2 6]
  | .subN n => [opByte 3 2 6, n]
  | .subXYd xy d => [xy.code, opByte 2 2 6, d]
  | .subXYH xy => [xy.code, opByte 2 2 4]
  | .subXYL xy => [xy.code, opByte 2 2 5]
  | .sbcR r => [opByte 2 3 r.code]
  | .sbcHL => [opByte 2 3 6]
  | .sbcN n => [opByte 3 3 6, n]
  | .sbcXYd xy d => [xy.code, opByte 2 3 6, d]
  | .sbcXYH xy => [xy.code, opByte 2 3 4]
  | .sbcXYL xy => [xy.code, opByte 2 3 5]
  | .andR r => [opByte 2 4 r.code]
  | .andHL => [opByte 2 4 6]
  | .andN n => [opByte 3 4 6, n]
  | .andXYd xy d => [xy.code, opByte 2 4 6, d]
  | .andXYH xy => [xy.code, opByte 2 4 4]
  | .andXYL xy => [xy.code, opByte 2 4 5]
  | .xorR r => [opByte 2 5 r.code]
  | .xorHL => [opByte 2 5 6]
  | .xorN n => [opByte 3 5 6, n]
  | .xorXYd xy d => [xy.code, opByte 2 5 6, d]
  | .xorXYH xy => [xy.code, opByte 2 5 4]
  | .xorXYL xy => [xy.code, opByte 2 5 5]
  | .orR r => [opByte 2 6 r.code]
  | .orHL => [opByte 2 6 6]
  | .orN n => [opByte 3 6 6, n]
  | .orXYd xy d => [xy.code, opByte 2 6 6, d]
  | .orXYH xy => [xy.code, opByte 2 6 4]
  | .orXYL xy => [xy.code, opByte 2 6 5]
  | .cpR r => [opByte 2 7 r.code]
  | .cpHL => [opByte 2 7 6]
  | .cpN n => [opByte 3 7 6, n]
  | .cpXYd xy d => [xy.code, opByte 2 7 6, d]
  | .cpXYH xy => [xy.code, opByte 2 7 4]
  | .cpXYL xy => [xy.code, opByte 2 7 5]
  | .incR r => [opByte 0 r.code 4]
  | .incHL => [opByte 0 6 4]
  | .incXYd xy d => [xy.code, opByte 0 6 4, d]
  | .incXYH xy => [xy.code, opByte 0 4 4]
  | .incXYL xy => [xy.code, opByte 0 5 4]
  | .decR r => [opByte 0 r.code 5]
  | .decHL => [opByte 0 6 5]
  | .decXYd xy d => [xy.code, opByte 0 6 5, d]
  | .decXYH xy => [xy.code, opByte 0 4 5]
  | .decXYL xy => [xy.code, opByte 0 5 5]
  | .daa => [0x27]
  | .cpl => [0x2F]
  | .neg => [0xED, 0x44]
  | .negCopies y => [0xED, opByte 1 y 4]
  | .ccf => [0x3F]
  | .scf => [0x37]
  | .nop => [0x00]
  | .halt => [0x76]
  | .di => [0xF3]
  | .ei => [0xFB]
  | .im0 => [0xED, 0x46]
  | .im1 => [0xED, 0x56]
  | .im2 => [0xED, 0x5E]
  | .im0Copies y => [0xED, opByte 1 y 6]
  | .im1Copy => [0xED, 0x76]
  | .im2Copy => [0xED, 0x7E]
  | .edNop op => [0xED, op]
  | .addHLSS ss => [pairByte 0 ss.code 1 1]
  | .addXYPP xy pp => [xy.code, pairByte 0 pp.code 1 1]
  | .adcHLSS ss => [0xED, pairByte 1 ss.code 1 2]
  | .sbcHLSS ss => [0xED, pairByte 1 ss.code 0 2]
  | .incSS ss => [pairByte 0 ss.code 0 3]
  | .incXY xy => [xy.code, 0x23]
  | .decSS ss => [pairByte 0 ss.code 1 3]
  | .decXY xy => [xy.code, 0x2B]
  | .rlca => [0x07]
  | .rla => [0x17]
  | .rrca => [0x0F]
  | .rra => [0x1F]
  | .rlcR r => [0xCB, opByte 0 0 r.code]
  | .rlcHL => [0xCB, opByte 0 0 6]
  | .rlcXYd xy d => [xy.code, 0xCB, d, opByte 0 0 6]
  | .rlcXYdR xy d r => [xy.code, 0xCB, d, opByte 0 0 r.code]
  | .rrcR r => [0xCB, opByte 0 1 r.code]
  | .rrcHL => [0xCB, opByte 0 1 6]
  | .rrcXYd xy d => [xy.code, 0xCB, d, opByte 0 1 6]
  | .rrcXYdR xy d r => [xy.code, 0xCB, d, opByte 0 1 r.code]
  | .rlR r => [0xCB, opByte 0 2 r.code]
  | .rlHL => [0xCB, opByte 0 2 6]
  | .rlXYd xy d => [xy.code, 0xCB, d, opByte 0 2 6]
  | .rlXYdR xy d r => [xy.code, 0xCB, d, opByte 0 2 r.code]
  | .rrR r => [0xCB, opByte 0 3 r.code]
  | .rrHL => [0xCB, opByte 0 3 6]
  | .rrXYd xy d => [xy.code, 0xCB, d, opByte 0 3 6]
  | .rrXYdR xy d r => [xy.code, 0xCB, d, opByte 0 3 r.code]
  | .slaR r => [0xCB, opByte 0 4 r.code]
  | .slaHL => [0xCB, opByte 0 4 6]
  | .slaXYd xy d => [xy.code, 0xCB, d, opByte 0 4 6]
  | .slaXYdR xy d r => [xy.code, 0xCB, d, opByte 0 4 r.code]
  | .sraR r => [0xCB, opByte 0 5 r.code]
  | .sraHL => [0xCB, opByte 0 5 6]
  | .sraXYd xy d => [xy.code, 0xCB, d, opByte 0 5 6]
  | .sraXYdR xy d r => [xy.code, 0xCB, d, opByte 0 5 r.code]
  | .sllR r => [0xCB, opByte 0 6 r.code]
  | .sllHL => [0xCB, opByte 0 6 6]
  | .sllXYd xy d => [xy.code, 0xCB, d, opByte 0 6 6]
  | .sllXYdR xy d r => [xy.code, 0xCB, d, opByte 0 6 r.code]
  | .srlR r => [0xCB, opByte 0 7 r.code]
  | .srlHL => [0xCB, opByte 0 7 6]
  | .srlXYd xy d => [xy.code, 0xCB, d, opByte 0 7 6]
  | .srlXYdR xy d r => [xy.code, 0xCB, d, opByte 0 7 r.code]
  | .rld => [0xED, 0x6F]
  | .rrd => [0xED, 0x67]
  | .bitBR b r => [0xCB, opByte 1 b r.code]
  | .bitBHL b => [0xCB, opByte 1 b 6]
  | .bitBXYd xy d b => [xy.code, 0xCB, d, opByte 1 b 6]
  | .bitBXYdCopies xy d b z => [xy.code, 0xCB, d, opByte 1 b z]
  | .resBR b r => [0xCB, opByte 2 b r.code]
  | .resBHL b => [0xCB, opByte 2 b 6]
  | .resBXYd xy d b => [xy.code, 0xCB, d, opByte 2 b 6]
  | .resBXYdR xy d b r => [xy.code, 0xCB, d, opByte 2 b r.code]
  | .setBR b r => [0xCB, opByte 3 b r.code]
  | .setBHL b => [0xCB, opByte 3 b 6]
  | .setBXYd xy d b => [xy.code, 0xCB, d, opByte 3 b 6]
  | .setBXYdR xy d b r => [xy.code, 0xCB, d, opByte 3 b r.code]
  | .jpNN nn => [0xC3, lo8 nn, hi8 nn]
  | .jpCcNN cc nn => [opByte 3 cc.code 2, lo8 nn, hi8 nn]
  | .jrE e => [0x18, e]
  | .jrCcE cc e => [opByte 0 (cc.code ||| 4) 0, e]
  | .jpHL => [0xE9]
  | .jpXY xy => [xy.code, 0xE9]
  | .djnzE e => [0x10, e]
  | .callNN nn => [0xCD, lo8 nn, hi8 nn]
  | .callCcNN cc nn => [opByte 3 cc.code 4, lo8 nn, hi8 nn]
  | .ret => [0xC9]
  | .retCc cc => [opByte 3 cc.code 0]
  | .reti => [0xED, 0x4D]
  | .retn => [0xED, 0x45]
  | .retnCopies y => [0xED, opByte 1 y 5]
  | .rstP t => [opByte 3 t 7]
  | .inAN n => [0xDB, n]
  | .inRC r => [0xED, opByte 1 r.code 0]
  | .inFC => [0xED, 0x70]
  | .outNA n => [0xD3, n]
  | .outCR r => [0xED, opByte 1 r.code 1]
  | .outC0 => [0xED, 0x71]
  | .ini => [0xED, 0xA2]
  | .inir => [0xED, 0xB2]
  | .ind => [0xED, 0xAA]
  | .indr => [0xED, 0xBA]
  | .outi => [0xED, 0xA3]
  | .otir => [0xED, 0xB3]
  | .outd => [0xED, 0xAB]
  | .otdr => [0xED, 0xBB]
  | .prefixCB => [0xCB]
  | .prefixDD => [0xDD]
  | .prefixED => [0xED]
  | .prefixFD => [0xFD]
  | .prefixCBAfterIndex xy => [xy.code, 0xCB]
  | .indexAgain xy i => xy.code :: i.encode
  | .edAfterIndex xy i => xy.code :: i.encode
  | .indexNoEffect xy i => xy.code :: i.encode

/-- Length in bytes (rule R129). -/
def Instr.size (i : Instr) : Nat := i.encode.length

/-! ## Table words -/

/-- The first `n` bytes of a number whose bit 0 is the least significant bit of the first byte. -/
def bytesOfNat : Nat → Nat → List Byte
  | 0, _ => []
  | n + 1, w => BitVec.ofNat 8 w :: bytesOfNat n (w / 256)

/-- How many zero bytes follow a table word: enough for the longest instruction without redundant prefixes. -/
def tablePad : Nat := 4

/-- What the decoder reads from the instruction whose bits are `w`, numbered as spec/opcode_table.json numbers them. The
`nbits` given bits alone are tried first, so that a row of the table that is a prefix byte is that row; where they do not
hold the whole instruction, zero operand bytes follow. -/
def decodeTableWord (nbits w : Nat) : Option Instr :=
  let code := bytesOfNat ((nbits + 7) / 8) w
  match decode code with
  | .ok (i, _) => some i
  | .error _ => match decode (code ++ bytesOfNat tablePad 0) with
    | .ok (i, _) => some i
    | .error _ => none

end Sys2Proof
end

