-- ==== Sys2Proof/Machine/Flags.lean ====
section
/-! DEFINITION. Flags: the bits of F, the helpers of rule R17, and every function of the spec that computes a result together
with its flags. -/

namespace Sys2Proof.Machine

/-! ## The bits of F (rules R10, R22) -/

def flagS (f : Byte) : Bool := f.getLsbD 7
def flagZ (f : Byte) : Bool := f.getLsbD 6
def flagY (f : Byte) : Bool := f.getLsbD 5
def flagH (f : Byte) : Bool := f.getLsbD 4
def flagX (f : Byte) : Bool := f.getLsbD 3
def flagPV (f : Byte) : Bool := f.getLsbD 2
def flagN (f : Byte) : Bool := f.getLsbD 1
def flagC (f : Byte) : Bool := f.getLsbD 0

/-- F from its eight bits, bit 7 first (rule R22). -/
def flagByte (s z y h x pv n c : Bool) : Byte :=
  BitVec.ofBool s ++ BitVec.ofBool z ++ BitVec.ofBool y ++ BitVec.ofBool h ++
    BitVec.ofBool x ++ BitVec.ofBool pv ++ BitVec.ofBool n ++ BitVec.ofBool c

/-- `m` if `b`, else 0: the parenthesised terms of the spec's flag formulas. -/
def maskIf (b : Bool) (m : Byte) : Byte := if b then m else 0

/-- The number of 1 bits of a byte. -/
def onesCount (v : Byte) : Nat :=
  (v.getLsbD 0).toNat + (v.getLsbD 1).toNat + (v.getLsbD 2).toNat + (v.getLsbD 3).toNat +
    (v.getLsbD 4).toNat + (v.getLsbD 5).toNat + (v.getLsbD 6).toNat + (v.getLsbD 7).toNat

/-- An even number of 1 bits (rule R17). -/
def evenParity (v : Byte) : Bool := onesCount v % 2 == 0

/-- `SZ(v)` (rule R17). -/
def szBits (v : Byte) : Byte := (v &&& 0x80) ||| maskIf (v == 0) 0x40

/-- `XY(v)` (rule R17). -/
def xyBits (v : Byte) : Byte := v &&& 0x28

/-- `PAR(v)` (rule R17). -/
def parBit (v : Byte) : Byte := maskIf (evenParity v) 0x04

/-- `SZP(v)` (rule R17). -/
def szpBits (v : Byte) : Byte := szBits v ||| xyBits v ||| parBit v

/-- A result and the new F. -/
structure Flagged (w : Nat) where
  res : BitVec w
  flags : Byte
  deriving DecidableEq, Repr

/-! ## 8-bit arithmetic and logic (rules R260 to R264) -/

/-- `ADD8(a, b, cin)` (rule R260). -/
def add8 (a b : Byte) (cin : Bool) : Flagged 8 :=
  let sum := a.toNat + b.toNat + cin.toNat
  let res : Byte := BitVec.ofNat 8 sum
  { res
    flags := flagByte (res.getLsbD 7) (res == 0) (res.getLsbD 5)
      ((a &&& 0x0F).toNat + (b &&& 0x0F).toNat + cin.toNat > 0x0F) (res.getLsbD 3)
      ((a ^^^ res) &&& (b ^^^ res) &&& 0x80 != 0) false (sum > 0xFF) }

/-- `SUB8(a, b, cin)` (rule R261). -/
def sub8 (a b : Byte) (cin : Bool) : Flagged 8 :=
  let diff : Int := a.toNat - b.toNat - cin.toNat
  let res : Byte := BitVec.ofInt 8 diff
  { res
    flags := flagByte (res.getLsbD 7) (res == 0) (res.getLsbD 5)
      (((a &&& 0x0F).toNat - (b &&& 0x0F).toNat - cin.toNat : Int) < 0) (res.getLsbD 3)
      ((a ^^^ b) &&& (a ^^^ res) &&& 0x80 != 0) true (diff < 0) }

/-- `INC8(v)`, with the F before the instruction, whose C is kept (rule R262). -/
def inc8 (f v : Byte) : Flagged 8 :=
  let res := v + 1
  { res
    flags := flagByte (res.getLsbD 7) (res == 0) (res.getLsbD 5) (v &&& 0x0F == 0x0F) (res.getLsbD 3)
      (v == 0x7F) false (flagC f) }

/-- `DEC8(v)`, with the F before the instruction, whose C is kept (rule R263). -/
def dec8 (f v : Byte) : Flagged 8 :=
  let res := v - 1
  { res
    flags := flagByte (res.getLsbD 7) (res == 0) (res.getLsbD 5) (v &&& 0x0F == 0) (res.getLsbD 3)
      (v == 0x80) true (flagC f) }

/-- `AND8(a, b)` (rule R264). -/
def and8 (a b : Byte) : Flagged 8 := { res := a &&& b, flags := szpBits (a &&& b) ||| 0x10 }

/-- `XOR8(a, b)` (rule R264). -/
def xor8 (a b : Byte) : Flagged 8 := { res := a ^^^ b, flags := szpBits (a ^^^ b) }

/-- `OR8(a, b)` (rule R264). -/
def or8 (a b : Byte) : Flagged 8 := { res := a ||| b, flags := szpBits (a ||| b) }

/-- `CP`: A is kept; the flags of the subtraction, but Y and X from the operand (rule R277). -/
def compare8 (a b : Byte) : Flagged 8 :=
  { res := a, flags := ((sub8 a b false).flags &&& 0xD7) ||| xyBits b }

/-! ## General-purpose (rules R300 to R304) -/

/-- `DAA`, the algorithm of rule R300, a total function of A and of N, H, C in F. -/
def decimalAdjust (a f : Byte) : Flagged 8 :=
  let lo := (a &&& 0x0F).toNat
  let low := flagH f || decide (lo > 9)
  let high := flagC f || decide (a.toNat > 0x99)
  let corr := maskIf low 0x06 ||| maskIf high 0x60
  let res := if flagN f then a - corr else a + corr
  let h := if flagN f then flagH f && decide (lo < 6) else decide (lo > 9)
  { res
    flags := szpBits res ||| maskIf h 0x10 ||| maskIf (flagN f) 0x02 ||| maskIf high 0x01 }

/-- `CPL` (rule R301). -/
def complement (a f : Byte) : Flagged 8 :=
  { res := a ^^^ 0xFF, flags := (f &&& 0xC5) ||| 0x12 ||| xyBits (a ^^^ 0xFF) }

/-- The F after `CCF` (rule R303). -/
def ccfFlags (a f : Byte) : Byte :=
  (f &&& 0xC4) ||| xyBits a ||| maskIf (flagC f) 0x10 ||| maskIf (!flagC f) 0x01

/-- The F after `SCF` (rule R304). -/
def scfFlags (a f : Byte) : Byte := (f &&& 0xC4) ||| xyBits a ||| 0x01

/-! ## 16-bit arithmetic (rules R320 to R322) -/

/-- `ADD16(a, b)`, with the F before the instruction, whose S, Z and P/V are kept (rule R320). -/
def add16 (f : Byte) (a b : Word) : Flagged 16 :=
  let sum := a.toNat + b.toNat
  let res : Word := BitVec.ofNat 16 sum
  { res
    flags := flagByte (flagS f) (flagZ f) (res.getLsbD 13)
      ((a &&& 0x0FFF).toNat + (b &&& 0x0FFF).toNat > 0x0FFF) (res.getLsbD 11) (flagPV f) false (sum > 0xFFFF) }

/-- `ADC16(a, b, cin)` (rule R321). -/
def adc16 (a b : Word) (cin : Bool) : Flagged 16 :=
  let sum := a.toNat + b.toNat + cin.toNat
  let res : Word := BitVec.ofNat 16 sum
  { res
    flags := flagByte (res.getLsbD 15) (res == 0) (res.getLsbD 13)
      ((a &&& 0x0FFF).toNat + (b &&& 0x0FFF).toNat + cin.toNat > 0x0FFF) (res.getLsbD 11)
      ((a ^^^ res) &&& (b ^^^ res) &&& 0x8000 != 0) false (sum > 0xFFFF) }

/-- `SBC16(a, b, cin)` (rule R322). -/
def sbc16 (a b : Word) (cin : Bool) : Flagged 16 :=
  let diff : Int := a.toNat - b.toNat - cin.toNat
  let res : Word := BitVec.ofInt 16 diff
  { res
    flags := flagByte (res.getLsbD 15) (res == 0) (res.getLsbD 13)
      (((a &&& 0x0FFF).toNat - (b &&& 0x0FFF).toNat - cin.toNat : Int) < 0) (res.getLsbD 11)
      ((a ^^^ b) &&& (a ^^^ res) &&& 0x8000 != 0) true (diff < 0) }

/-! ## Rotates, shifts, bits (rules R340 to R379) -/

/-- The eight rotate and shift operations (rule R126). -/
inductive ShiftOp where
  | rlc | rrc | rl | rr | sla | sra | sll | srl
  deriving DecidableEq, Repr

/-- The result of a rotate or shift of `v` with carry in `cin` (rules R345 to R351, R353). -/
def ShiftOp.result (o : ShiftOp) (v : Byte) (cin : Bool) : Byte :=
  match o with
  | .rlc => (v <<< 1) ||| maskIf (v.getLsbD 7) 0x01
  | .rrc => (v >>> 1) ||| maskIf (v.getLsbD 0) 0x80
  | .rl => (v <<< 1) ||| maskIf cin 0x01
  | .rr => (v >>> 1) ||| maskIf cin 0x80
  | .sla => v <<< 1
  | .sra => (v >>> 1) ||| (v &&& 0x80)
  | .sll => (v <<< 1) ||| 1
  | .srl => v >>> 1

/-- The bit a rotate or shift moves out (rules R345 to R351, R353). -/
def ShiftOp.carryOut (o : ShiftOp) (v : Byte) : Bool :=
  match o with
  | .rlc | .rl | .sla | .sll => v.getLsbD 7
  | .rrc | .rr | .sra | .srl => v.getLsbD 0

/-- A CB-table rotate or shift of `v`, with the F before the instruction (rule R344). -/
def shift8 (o : ShiftOp) (f v : Byte) : Flagged 8 :=
  let res := o.result v (flagC f)
  { res, flags := szpBits res ||| maskIf (o.carryOut v) 0x01 }

/-- An accumulator rotate: S, Z and P/V are kept (rules R340 to R343). -/
def rotateAcc (o : ShiftOp) (f a : Byte) : Flagged 8 :=
  let res := o.result a (flagC f)
  { res, flags := (f &&& 0xC4) ||| xyBits res ||| maskIf (o.carryOut a) 0x01 }

/-- The F after `BIT b` of `v`, Y and X from `xy` (rule R370). -/
def bitFlags (b : Bits3) (v xy f : Byte) : Byte :=
  let t := v.getLsbD b.toNat
  maskIf (b == 7 && t) 0x80 ||| maskIf (!t) 0x44 ||| 0x10 ||| xyBits xy ||| (f &&& 0x01)

/-- `v & ~(1 << b)` (rule R376). -/
def resetBit (b : Bits3) (v : Byte) : Byte := v &&& ~~~((1 : Byte) <<< b.toNat)

/-- `v | (1 << b)` (rule R379). -/
def setBit (b : Bits3) (v : Byte) : Byte := v ||| ((1 : Byte) <<< b.toNat)

/-! ## Loads from I and R, block instructions, input (rules R176, R235, R239, R421, R427) -/

/-- The F after `LD A,I` or `LD A,R` (rules R176, R177). -/
def controlLoadFlags (v : Byte) (iff2 : Bool) (f : Byte) : Byte :=
  szBits v ||| xyBits v ||| maskIf iff2 0x04 ||| (f &&& 0x01)

/-- The F after `LDI` or `LDD`, from the byte `v` moved, A, and BC after its decrement (rule R235). -/
def copyFlags (v a : Byte) (bc : Word) (f : Byte) : Byte :=
  let n := v + a
  (f &&& 0xC1) ||| maskIf (bc != 0) 0x04 ||| ((n &&& 0x02) <<< 4) ||| (n &&& 0x08)

/-- The F after `CPI` or `CPD`, from A, the byte `v`, and BC after its decrement (rule R239). -/
def searchFlags (a v : Byte) (bc : Word) (f : Byte) : Byte :=
  let res := a - v
  let hf := (a &&& 0x0F) < (v &&& 0x0F)
  let n := res - maskIf hf 1
  flagByte (res.getLsbD 7) (res == 0) (n.getLsbD 1) hf (n.getLsbD 3) (bc != 0) true (flagC f)

/-- The F after `IN r,(C)` and `IN F,(C)` (rules R421, R422). -/
def inFlags (v f : Byte) : Byte := szpBits v ||| (f &&& 0x01)

/-- `IOFLAGS(v, Bn, k)` (rule R427). -/
def ioFlags (v bn : Byte) (k : Nat) : Byte :=
  szBits bn ||| xyBits bn ||| maskIf (v.getLsbD 7) 0x02 ||| maskIf (decide (k > 0xFF)) 0x11 |||
    parBit (BitVec.ofNat 8 (k % 8) ^^^ bn)

end Sys2Proof.Machine
end

