-- ==== Sys2Proof/Machine/State.lean ====
section
/-! DEFINITION. The machine's state, as plain data: every element of rule R20, the parameters of rule R7 that select an
instance of the hardware, and the model's own fields for what the host supplies and observes. -/

namespace Sys2Proof.Machine

/-- One bank of the eight 8-bit registers (rules R21, R24). -/
structure Bank where
  a : Byte
  f : Byte
  b : Byte
  c : Byte
  d : Byte
  e : Byte
  h : Byte
  l : Byte
  deriving DecidableEq, Repr

/-- The interrupt mode; the value 3 does not exist (rule R39). -/
inductive IntMode where
  | im0 | im1 | im2
  deriving DecidableEq, Repr

/-- A port access as the host sees it (rules R441, R442). -/
inductive PortEvent where
  /-- A read request of port `hi:lo`. -/
  | input (lo hi : Byte)
  /-- The output event of port `hi:lo`. -/
  | output (lo hi v : Byte)
  deriving DecidableEq, Repr

/-- The bytes of a group of pages: (key, byte) pairs, the keys strictly rising, no byte equal to `Memory.blank`. The byte
at offset `o` of page `p` has key `16384 p + o`. -/
abbrev Memory := List Host.Cell

/-- What an unlisted key reads as. DESIGN CHOICE, unsafe: assumption 1. -/
def Memory.blank : Byte := 0

/-- The state of the block between instruction slots. -/
structure State where
  /-- A, F, B, C, D, E, H, L (rules R21, R22). -/
  main : Bank
  /-- A', F', B', C', D', E', H', L' (rule R24). -/
  shadow : Bank
  /-- IX and IY (rule R25). -/
  ix : Word
  iy : Word
  /-- The stack pointer (rule R26). -/
  sp : Word
  /-- The program counter (rule R27). -/
  pc : Word
  /-- The interrupt vector register (rule R34). -/
  i : Byte
  /-- The refresh register: a 7-bit counter and a sticky bit 7 (rule R35). -/
  r : Byte
  /-- The interrupt flip-flops (rule R38). -/
  iff1 : Bool
  iff2 : Bool
  /-- The interrupt mode (rule R39). -/
  im : IntMode
  /-- The halt flag (rule R40). -/
  halt : Bool
  /-- The one-instruction deferral after `EI` (rule R41). -/
  eiDelay : Bool
  /-- The interrupt request latches (rule R42). -/
  intPending : Bool
  nmiPending : Bool
  /-- The paging control byte (rule R44). -/
  memorySelect : Byte
  /-- 128K mode, as against 48K mode (rule R45). -/
  is128 : Bool
  /-- The T-state counter (rule R46). -/
  t : Nat
  /-- The border latch (rule R47). -/
  border : BitVec 3
  /-- RAM pages 0 to 7 (rule R48). -/
  ram : Memory
  /-- ROM pages 0 and 1 (rule R48). -/
  rom : Memory
  /-- The parameters of this instance (rule R7); no operation changes them. -/
  params : Config.Params
  /-- The model's own: answers the host has lined up for port reads, the next one first (rule R560). -/
  portAnswers : List Byte
  /-- The model's own: how many port reads there have been; counts the draws of rule R441. -/
  portReads : Nat
  /-- The model's own: bytes the interrupting device has lined up, the next one first (rule R560). -/
  busAnswers : List Byte
  /-- The model's own: how many bus bytes have been taken; counts the draws of rules R536 and R538. -/
  busReads : Nat
  /-- The model's own: the port accesses so far, the latest first (rules R441, R442). -/
  trace : List PortEvent
  deriving DecidableEq, Repr

/-- Why the machine stops. The block itself has no error state (rule R520). -/
inductive Fault where
  /-- Raised by `step`, by the meanings of `prefixDD`, `prefixFD` and of chains that end in one, and by a mode 0 acceptance,
  when every byte the lookup reaches is an index prefix: the instruction has no step (rule R139). Safe: the spec lets
  the model be stuck here. -/
  | unboundedPrefixRun
  deriving DecidableEq, Repr

/-- Why the model gives an instruction no meaning. -/
inductive Refusal where
  /-- Raised by an arm of `exec` whose instruction has no meaning yet; none is left. Safe. -/
  | notModelled (mnemonic : String)
  deriving DecidableEq, Repr

/-- What a slot or a meaning answers. -/
abbrev Result := Host.Outcome State Fault Refusal

/-- A bank of zeros. -/
def Bank.zero : Bank := ⟨0, 0, 0, 0, 0, 0, 0, 0⟩

/-- The machine right after machine-init and reset (rules R50, R51). PC, SP, AF, IFF1, IFF2, IM, I, R, Halt, EiDelay, the
latches, MemorySelect and T are the spec's. DESIGN CHOICE, unsafe: a 48K machine (assumption 2), zero in the registers
of `ResetGPR` (assumption 3), border 0 (assumption 4), blank pages (assumption 1); the parameters are the spec's defaults
(assumption 5); no answer lined up, the draw counters at 0 (assumption 6). -/
def State.reset : State where
  main := { Bank.zero with a := 0xFF, f := 0xFF }
  shadow := Bank.zero
  ix := 0
  iy := 0
  sp := 0xFFFF
  pc := 0
  i := 0
  r := 0
  iff1 := false
  iff2 := false
  im := .im0
  halt := false
  eiDelay := false
  intPending := false
  nmiPending := false
  memorySelect := 0x30
  is128 := false
  t := 0
  border := 0
  ram := []
  rom := []
  params := Config.Params.default
  portAnswers := []
  portReads := 0
  busAnswers := []
  busReads := 0
  trace := []

end Sys2Proof.Machine
end

