-- ==== Sys2Proof/Machine/Ops.lean ====
section
/-! DEFINITION. The named operations over registers, memory and ports: field updates, the banked memory map
(20_memory.md), the stack (rule R14), R increments (rule R36), the port interface (48_io.md), taking an interrupt and
returning from one (60_exceptions.md). -/

namespace Sys2Proof.Machine

/-! ## Register pairs of a bank (rule R23) -/

def Bank.af (k : Bank) : Word := joinBytes k.a k.f
def Bank.bc (k : Bank) : Word := joinBytes k.b k.c
def Bank.de (k : Bank) : Word := joinBytes k.d k.e
def Bank.hl (k : Bank) : Word := joinBytes k.h k.l

/-! ## Register updates -/

namespace State

def bc (s : State) : Word := s.main.bc
def de (s : State) : Word := s.main.de
def hl (s : State) : Word := s.main.hl

def setMain (s : State) (k : Bank) : State := { s with main := k }
def setA (s : State) (v : Byte) : State := s.setMain { s.main with a := v }
def setF (s : State) (v : Byte) : State := s.setMain { s.main with f := v }
def setB (s : State) (v : Byte) : State := s.setMain { s.main with b := v }
def setBC (s : State) (w : Word) : State := s.setMain { s.main with b := hi8 w, c := lo8 w }
def setDE (s : State) (w : Word) : State := s.setMain { s.main with d := hi8 w, e := lo8 w }
def setHL (s : State) (w : Word) : State := s.setMain { s.main with h := hi8 w, l := lo8 w }
def setSP (s : State) (w : Word) : State := { s with sp := w }
def setPC (s : State) (w : Word) : State := { s with pc := w }
def setI (s : State) (v : Byte) : State := { s with i := v }
def setR (s : State) (v : Byte) : State := { s with r := v }
def setIM (s : State) (m : IntMode) : State := { s with im := m }
def setHalt (s : State) (b : Bool) : State := { s with halt := b }
def setEiDelay (s : State) (b : Bool) : State := { s with eiDelay := b }
def setIFFs (s : State) (b1 b2 : Bool) : State := { s with iff1 := b1, iff2 := b2 }

/-- `EX AF,AF'` (rule R231). -/
def exchangeAF (s : State) : State :=
  { s with
    main := { s.main with a := s.shadow.a, f := s.shadow.f }
    shadow := { s.shadow with a := s.main.a, f := s.main.f } }

/-- `EXX` (rule R232). -/
def exchangeBanks (s : State) : State :=
  { s with
    main := { s.shadow with a := s.main.a, f := s.main.f }
    shadow := { s.main with a := s.shadow.a, f := s.shadow.f } }

/-- `n` R increments: bits 6:0 count, bit 7 stays (rule R36). -/
def incR (s : State) (n : Nat) : State :=
  { s with r := (s.r &&& 0x80) ||| ((s.r + BitVec.ofNat 8 n) &&& 0x7F) }

/-- The T-states of a slot (rules R46, R551). -/
def addT (s : State) (n : Nat) : State := { s with t := s.t + n }

end State

/-! ## Sparse memory -/

/-- The byte at a key. -/
def Memory.read : Memory → Nat → Byte
  | [], _ => Memory.blank
  | (k, v) :: m, a => if k = a then v else Memory.read m a

/-- The memory with a byte that is not blank at key `a`. -/
def Memory.insert : Memory → Nat → Byte → Memory
  | [], a, v => [(a, v)]
  | (k, w) :: m, a, v =>
    if a < k then (a, v) :: (k, w) :: m
    else if a = k then (a, v) :: m
    else (k, w) :: Memory.insert m a v

/-- The memory with byte `v` at key `a`, in canonical form. -/
def Memory.write (m : Memory) (a : Nat) (v : Byte) : Memory :=
  if v = Memory.blank then m.filter (fun c => c.1 != a) else m.insert a v

/-- The canonical form from key `low` on: keys strictly rising and below `size`, no blank byte. -/
def Memory.wfFrom (size : Nat) : (low : Nat) → Memory → Bool
  | _, [] => true
  | low, (k, v) :: m => decide (low ≤ k) && decide (k < size) && v != Memory.blank && Memory.wfFrom size (k + 1) m

/-- The canonical form of a memory of `size` bytes. -/
def Memory.wf (size : Nat) (m : Memory) : Bool := Memory.wfFrom size 0 m

/-! ## The memory map (20_memory.md) -/

/-- The page size (rule R6). -/
def pageSize : Nat := 16384

/-- The size of the eight RAM pages, and of the two ROM pages (rule R6). -/
def ramSize : Nat := 8 * pageSize
def romSize : Nat := 2 * pageSize

/-- A byte of a page, as the routing function answers it (rule R72). -/
inductive Place where
  | rom (page : BitVec 1) (off : BitVec 14)
  | ram (page : Bits3) (off : BitVec 14)
  deriving DecidableEq, Repr

/-- RamBank, bits 2:0 of MemorySelect (rule R44). -/
def ramBank (ms : Byte) : Bits3 := ms.extractLsb' 0 3

/-- ShadowScreen, bit 3 of MemorySelect (rule R44). -/
def shadowScreen (ms : Byte) : Bool := ms.getLsbD 3

/-- RomSelect, bit 4 of MemorySelect (rule R44). -/
def romSelect (ms : Byte) : BitVec 1 := ms.extractLsb' 4 1

/-- PagingLock, bit 5 of MemorySelect (rule R44). -/
def pagingLock (ms : Byte) : Bool := ms.getLsbD 5

/-- The routing function (rule R72). -/
def route (ms : Byte) (a : Word) : Place :=
  let off : BitVec 14 := a.extractLsb' 0 14
  match (a.extractLsb' 14 2).toNat with
  | 0 => .rom (romSelect ms) off
  | 1 => .ram 5 off
  | 2 => .ram 2 off
  | _ => .ram (ramBank ms) off

/-- The key of a byte of a page. -/
def pageKey (page off : Nat) : Nat := page * pageSize + off

namespace State

/-- `MemRead(a, 1)` (rule R76). -/
def memRead (s : State) (a : Word) : Byte :=
  match route s.memorySelect a with
  | .rom p o => s.rom.read (pageKey p.toNat o.toNat)
  | .ram p o => s.ram.read (pageKey p.toNat o.toNat)

/-- `MemWrite(a, 1, v)`: a write to a ROM page is dropped (rule R77). -/
def memWrite (s : State) (a : Word) (v : Byte) : State :=
  match route s.memorySelect a with
  | .rom _ _ => s
  | .ram p o => { s with ram := s.ram.write (pageKey p.toNat o.toNat) v }

/-- `MemRead(a, 2)` (rule R90). -/
def memRead16 (s : State) (a : Word) : Word := joinBytes (s.memRead (a + 1)) (s.memRead a)

/-- `MemWrite(a, 2, w)`: the low byte, then the high byte (rule R90). -/
def memWrite16 (s : State) (a : Word) (w : Word) : State := (s.memWrite a (lo8 w)).memWrite (a + 1) (hi8 w)

/-- `SetState(b)`: the paging byte, unless PagingLock is set (rule R80). -/
def setPaging (s : State) (b : Byte) : State :=
  if pagingLock s.memorySelect then s else { s with memorySelect := b }

/-! ## The stack (rule R14) -/

/-- `push16(w)`: the high byte at SP-1, the low byte at SP-2. -/
def push16 (s : State) (w : Word) : State :=
  ((s.memWrite (s.sp - 1) (hi8 w)).memWrite (s.sp - 2) (lo8 w)).setSP (s.sp - 2)

/-- The word `pop16()` returns. -/
def popped (s : State) : Word := s.memRead16 s.sp

/-- What `pop16()` does to SP. -/
def dropTop (s : State) : State := s.setSP (s.sp + 2)

/-- The two writes of `EX (SP),HL`: the high byte, then the low byte (rule R233). -/
def exchangeTop (s : State) (w : Word) : State := (s.memWrite (s.sp + 1) (hi8 w)).memWrite s.sp (lo8 w)

/-- `CALL` and `RST`: push PC, which is the address after the instruction, and jump (rules R390, R400, R410). -/
def call (s : State) (target : Word) : State := (s.push16 s.pc).setPC target

/-- A relative jump from the address after the instruction (rule R390). -/
def jumpRelative (s : State) (e : Byte) : State := s.setPC (s.pc + sext8 e)

/-- The rewind of a repeating block instruction (rules R236, R430). -/
def rewindIf (s : State) (again : Bool) : State := if again then s.setPC (s.pc - 2) else s

/-! ## Ports (48_io.md) -/

end State

/-- A byte drawn from outside the block, and the state after the draw. -/
structure Drawn where
  value : Byte
  state : State
  deriving DecidableEq, Repr

/-- Gives a drawn byte to an operation. -/
def Drawn.into (x : Drawn) (k : State → Byte → State) : State := k x.state x.value

namespace State

/-- `PortIn(lo, hi)`: the next answer the host has lined up, else any byte (rule R441). -/
def portIn (s : State) (lo hi : Byte) : Drawn :=
  { value := s.portAnswers.head?.getD (Config.freePort s.portReads lo hi)
    state := { s with
      portAnswers := s.portAnswers.tail
      portReads := s.portReads + 1
      trace := .input lo hi :: s.trace } }

/-- `IsPagingPort(lo, hi)` (rule R445). -/
def isPagingPort (s : State) (lo hi : Byte) : Bool :=
  s.params.pagingPorts.any fun p => joinBytes hi lo &&& p.1 == p.2

/-- `PortOut(lo, hi, v)`: the paging byte, the border latch, the output event (rule R442). -/
def portOut (s : State) (lo hi v : Byte) : State :=
  let s1 := if s.isPagingPort lo hi then s.setPaging v else s
  let s2 := if lo = 0xFE then { s1 with border := v.extractLsb' 0 3 } else s1
  { s2 with trace := .output lo hi v :: s2.trace }

/-- `IntBusByte()`: the next byte the device has lined up, else any byte (rules R536, R538). -/
def busByte (s : State) : Drawn :=
  { value := s.busAnswers.head?.getD (Config.freeBus s.busReads)
    state := { s with busAnswers := s.busAnswers.tail, busReads := s.busReads + 1 } }

/-! ## Taking an interrupt, and returning from one (60_exceptions.md) -/

/-- What every entry does before PC is saved: Halt, EiDelay and IFF1 cleared, one R increment (rules R531, R533, R534). -/
def acknowledge (s : State) : State :=
  ({ s with halt := false, eiDelay := false, iff1 := false }).incR 1

/-- Entry at a fixed address: the acknowledge, PC saved on the stack, PC at the handler (rules R531, R537, R540). -/
def takeInterrupt (s : State) (handler : Word) : State :=
  let s1 := s.acknowledge
  (s1.push16 s1.pc).setPC handler

/-- NMI entry (rule R531): IFF2 is not changed. -/
def enterNmi (s : State) : State := ({ s with nmiPending := false }).takeInterrupt 0x0066

/-- What a maskable acceptance clears besides (rule R534). -/
def clearRequest (s : State) : State := { s with intPending := false, iff2 := false }

/-- Mode 1 (rule R537). -/
def enterMode1 (s : State) : State := s.clearRequest.takeInterrupt 0x0038

/-- The address of the mode 2 vector (rule R538). -/
def vectorAddress (i b : Byte) : Word := joinBytes i (b &&& 0xFE)

/-- Mode 2: one byte from the device, PC saved, then PC loaded through the vector (rule R538). -/
def enterMode2 (s : State) : State :=
  s.clearRequest.acknowledge.busByte.into fun s1 b =>
    let s2 := s1.push16 s1.pc
    s2.setPC (s2.memRead16 (vectorAddress s2.i b))

/-- `RETI` and `RETN`: PC popped, IFF1 from IFF2 (rules R408, R409, R541). -/
def returnFromInterrupt (s : State) : State :=
  { s.dropTop.setPC s.popped with iff1 := s.iff2 }

end State

end Sys2Proof.Machine
end

