-- ==== Sys2Proof/Machine/Operands.lean ====
section
/-! DEFINITION. Operand forms (rules R124, R125, R127, R134, R266) and the shared operations of the instruction families over
them. -/

namespace Sys2Proof.Machine

/-! ## Registers by code -/

/-- `reg8[r]` of a bank (rule R124). -/
def Bank.get (k : Bank) : Reg8 → Byte
  | .b => k.b | .c => k.c | .d => k.d | .e => k.e | .h => k.h | .l => k.l | .a => k.a

/-- `reg8[r] <- v` (rule R124). -/
def Bank.set (k : Bank) (r : Reg8) (v : Byte) : Bank :=
  match r with
  | .b => { k with b := v } | .c => { k with c := v } | .d => { k with d := v } | .e => { k with e := v }
  | .h => { k with h := v } | .l => { k with l := v } | .a => { k with a := v }

namespace State

def reg8 (s : State) (r : Reg8) : Byte := s.main.get r
def setReg8 (s : State) (r : Reg8) (v : Byte) : State := s.setMain (s.main.set r v)

/-- IX or IY (rule R25). -/
def indexReg (s : State) : XY → Word
  | .ix => s.ix
  | .iy => s.iy

/-- `XY <- w` (rule R25). -/
def setIndex (s : State) (xy : XY) (w : Word) : State :=
  match xy with
  | .ix => { s with ix := w }
  | .iy => { s with iy := w }

/-- `XYH` or `XYL` (rule R25). -/
def half (s : State) (xy : XY) : Half → Byte
  | .high => hi8 (s.indexReg xy)
  | .low => lo8 (s.indexReg xy)

/-- A write to a half keeps the other half (rules R23, R25). -/
def setHalf (s : State) (xy : XY) (h : Half) (v : Byte) : State :=
  match h with
  | .high => s.setIndex xy (joinBytes v (s.half xy .low))
  | .low => s.setIndex xy (joinBytes (s.half xy .high) v)

/-- An operand of `LD p,p'` (rule R180). -/
def preg (s : State) (xy : XY) : PReg → Byte
  | .b => s.main.b | .c => s.main.c | .d => s.main.d | .e => s.main.e
  | .xyh => s.half xy .high | .xyl => s.half xy .low | .a => s.main.a

/-- A destination of `LD p,p'` (rule R180). -/
def setPReg (s : State) (xy : XY) (p : PReg) (v : Byte) : State :=
  match p with
  | .b => s.setReg8 .b v | .c => s.setReg8 .c v | .d => s.setReg8 .d v | .e => s.setReg8 .e v
  | .xyh => s.setHalf xy .high v | .xyl => s.setHalf xy .low v | .a => s.setReg8 .a v

/-- A pair dd / ss (rule R125). -/
def pairDD (s : State) : PairDD → Word
  | .bc => s.bc | .de => s.de | .hl => s.hl | .sp => s.sp

/-- `dd <- w` (rules R23, R125). -/
def setDD (s : State) (dd : PairDD) (w : Word) : State :=
  match dd with
  | .bc => s.setBC w | .de => s.setDE w | .hl => s.setHL w | .sp => s.setSP w

/-- A pair qq (rule R125). -/
def pairQQ (s : State) : PairQQ → Word
  | .bc => s.bc | .de => s.de | .hl => s.hl | .af => s.main.af

/-- `qq <- w`; AF takes all eight bits of F (rules R125, R212). -/
def setQQ (s : State) (qq : PairQQ) (w : Word) : State :=
  match qq with
  | .bc => s.setBC w | .de => s.setDE w | .hl => s.setHL w
  | .af => (s.setA (hi8 w)).setF (lo8 w)

/-- A pair pp or rr (rule R125). -/
def pairPP (s : State) (xy : XY) : PairPP → Word
  | .bc => s.bc | .de => s.de | .xy => s.indexReg xy | .sp => s.sp

/-- The effective address `(XY + sext_8(d)) mod 65536` (rule R127). -/
def ea (s : State) (xy : XY) (d : Byte) : Word := s.indexReg xy + sext8 d

/-- The carry flag before the instruction. -/
def carry (s : State) : Bool := flagC s.main.f

/-- `cond(ccc)` (rule R32). -/
def cond (s : State) : Cond → Bool
  | .nz => !flagZ s.main.f | .z => flagZ s.main.f
  | .nc => !flagC s.main.f | .c => flagC s.main.f
  | .po => !flagPV s.main.f | .pe => flagPV s.main.f
  | .p => !flagS s.main.f | .m => flagS s.main.f

/-- A and F from a result. -/
def setAF (s : State) (x : Flagged 8) : State := (s.setA x.res).setF x.flags

end State

/-- Stores a result by `put` and sets F. -/
def Flagged.into {w : Nat} (x : Flagged w) (put : BitVec w → State) : State := (put x.res).setF x.flags

/-- The target of `RST` (rule R126). -/
def restartAddress (t : Bits3) : Word := t.setWidth 16 * 8

namespace State

/-! ## 8-bit arithmetic and logic on A and an operand byte (rules R270 to R277) -/

def aluAdd (s : State) (b : Byte) : State := s.setAF (add8 s.main.a b false)
def aluAdc (s : State) (b : Byte) : State := s.setAF (add8 s.main.a b s.carry)
def aluSub (s : State) (b : Byte) : State := s.setAF (sub8 s.main.a b false)
def aluSbc (s : State) (b : Byte) : State := s.setAF (sub8 s.main.a b s.carry)
def aluAnd (s : State) (b : Byte) : State := s.setAF (and8 s.main.a b)
def aluXor (s : State) (b : Byte) : State := s.setAF (xor8 s.main.a b)
def aluOr (s : State) (b : Byte) : State := s.setAF (or8 s.main.a b)
def aluCp (s : State) (b : Byte) : State := s.setAF (compare8 s.main.a b)

/-- `LD A,I` and `LD A,R` (rules R176, R177). -/
def loadAFromControl (s : State) (v : Byte) : State :=
  (s.setA v).setF (controlLoadFlags v s.iff2 s.main.f)

/-! ## Block instructions: `step` is 1 or -1 -/

/-- One iteration of `LDI` or `LDD` (rules R235, R237). -/
def blockCopy (s : State) (step : Word) : State :=
  let v := s.memRead s.hl
  let f := copyFlags v s.main.a (s.bc - 1) s.main.f
  ((((s.memWrite s.de v).setHL (s.hl + step)).setDE (s.de + step)).setBC (s.bc - 1)).setF f

/-- One iteration of `CPI` or `CPD` (rules R239, R241). -/
def blockCompare (s : State) (step : Word) : State :=
  let f := searchFlags s.main.a (s.memRead s.hl) (s.bc - 1) s.main.f
  ((s.setHL (s.hl + step)).setBC (s.bc - 1)).setF f

/-- The repeat condition of `CPIR` and `CPDR`, on the state before the iteration (rule R240). -/
def compareRepeats (s : State) : Bool := s.bc - 1 != 0 && s.main.a - s.memRead s.hl != 0

/-- One iteration of `INI` or `IND`: the port's high byte is B before its decrement (rules R428, R429). -/
def blockIn (s : State) (step : Word) : State :=
  (s.portIn s.main.c s.main.b).into fun s1 v =>
    let b := s.main.b - 1
    let k := v.toNat + (s.main.c + lo8 step).toNat
    (((s1.memWrite s.hl v).setHL (s.hl + step)).setB b).setF (ioFlags v b k)

/-- One iteration of `OUTI` or `OUTD`: the port's high byte is B after its decrement (rules R433, R434). -/
def blockOut (s : State) (step : Word) : State :=
  let v := s.memRead s.hl
  let b := s.main.b - 1
  let k := v.toNat + (lo8 (s.hl + step)).toNat
  (((s.setB b).portOut s.main.c b v).setHL (s.hl + step)).setF (ioFlags v b k)

/-! ## Rotates, shifts and bits -/

/-- `RLCA`, `RRCA`, `RLA`, `RRA` (rules R340 to R343). -/
def rotateA (s : State) (o : ShiftOp) : State := s.setAF (rotateAcc o s.main.f s.main.a)

/-- A rotate or shift of a register (rule R344). -/
def shiftReg (s : State) (o : ShiftOp) (r : Reg8) : State :=
  (shift8 o s.main.f (s.reg8 r)).into (s.setReg8 r)

/-- A rotate or shift of a byte of memory (rule R344). -/
def shiftMem (s : State) (o : ShiftOp) (a : Word) : State :=
  (shift8 o s.main.f (s.memRead a)).into (s.memWrite a)

/-- A write to memory and a copy of the byte to a register, which receives it even when the write is dropped
(rule R352). -/
def writeMemCopy (s : State) (a : Word) (r : Reg8) (v : Byte) : State := (s.memWrite a v).setReg8 r v

/-- A rotate or shift of a byte of memory with a copy to a register (rule R352). -/
def shiftMemCopy (s : State) (o : ShiftOp) (a : Word) (r : Reg8) : State :=
  (shift8 o s.main.f (s.memRead a)).into (s.writeMemCopy a r)

/-- `RLD` (rule R360). -/
def rotateDigitLeft (s : State) : State :=
  let m := s.memRead s.hl
  let a := (s.main.a &&& 0xF0) ||| (m >>> 4)
  ((s.memWrite s.hl ((m <<< 4) ||| (s.main.a &&& 0x0F))).setA a).setF (szpBits a ||| (s.main.f &&& 0x01))

/-- `RRD` (rule R361). -/
def rotateDigitRight (s : State) : State :=
  let m := s.memRead s.hl
  let a := (s.main.a &&& 0xF0) ||| (m &&& 0x0F)
  ((s.memWrite s.hl ((s.main.a <<< 4) ||| (m >>> 4))).setA a).setF (szpBits a ||| (s.main.f &&& 0x01))

/-- `BIT b` of the byte `v`, Y and X from `xy` (rule R370). -/
def bitTest (s : State) (b : Bits3) (v xy : Byte) : State := s.setF (bitFlags b v xy s.main.f)

end State

end Sys2Proof.Machine
end

