-- ==== Sys2Proof/Machine/Alu16.lean ====
section
/-! DEFINITION. The meanings of the 16-bit arithmetic group (45_alu16.md). When a meaning runs, PC already holds the
address of the byte after the instruction and R is already incremented (rules R27, R36, R121). -/

namespace Sys2Proof.Machine

/-- `ADD HL,ss` (rule R323). -/
def execAddHLSS (ss : PairDD) (s : State) : Result :=
  .next ((add16 s.main.f s.hl (s.pairDD ss)).into s.setHL)

/-- `ADD XY,pp`: pair code 10 is the index register itself (rule R324). -/
def execAddXYPP (xy : XY) (pp : PairPP) (s : State) : Result :=
  .next ((add16 s.main.f (s.indexReg xy) (s.pairPP xy pp)).into (s.setIndex xy))

/-- `ADC HL,ss` (rule R325). -/
def execAdcHLSS (ss : PairDD) (s : State) : Result :=
  .next ((adc16 s.hl (s.pairDD ss) s.carry).into s.setHL)

/-- `SBC HL,ss` (rule R326). -/
def execSbcHLSS (ss : PairDD) (s : State) : Result :=
  .next ((sbc16 s.hl (s.pairDD ss) s.carry).into s.setHL)

/-- `INC ss` (rule R327). -/
def execIncSS (ss : PairDD) (s : State) : Result :=
  .next (s.setDD ss (s.pairDD ss + 1))

/-- `INC XY` (rule R328). -/
def execIncXY (xy : XY) (s : State) : Result :=
  .next (s.setIndex xy (s.indexReg xy + 1))

/-- `DEC ss` (rule R329). -/
def execDecSS (ss : PairDD) (s : State) : Result :=
  .next (s.setDD ss (s.pairDD ss - 1))

/-- `DEC XY` (rule R330). -/
def execDecXY (xy : XY) (s : State) : Result :=
  .next (s.setIndex xy (s.indexReg xy - 1))

end Sys2Proof.Machine
end

