-- ==== Sys2Proof/Machine/Alu8.lean ====
section
/-! DEFINITION. The meanings of the 8-bit arithmetic and logic group (43_alu8.md). When a meaning runs, PC already holds the
address of the byte after the instruction and R is already incremented (rules R27, R36, R121). -/

namespace Sys2Proof.Machine

/-- `ADD A,r` (rule R270). -/
def execAddR (r : Reg8) (s : State) : Result :=
  .next (s.aluAdd (s.reg8 r))

/-- `ADD A,(HL)` (rule R270). -/
def execAddHL (s : State) : Result :=
  .next (s.aluAdd (s.memRead s.hl))

/-- `ADD A,n` (rule R270). -/
def execAddN (n : Byte) (s : State) : Result :=
  .next (s.aluAdd n)

/-- `ADD A,(XY+d)` (rule R270). -/
def execAddXYd (xy : XY) (d : Byte) (s : State) : Result :=
  .next (s.aluAdd (s.memRead (s.ea xy d)))

/-- `ADD A,XYH` (undocumented) (rule R270). -/
def execAddXYH (xy : XY) (s : State) : Result :=
  .next (s.aluAdd (s.half xy .high))

/-- `ADD A,XYL` (undocumented) (rule R270). -/
def execAddXYL (xy : XY) (s : State) : Result :=
  .next (s.aluAdd (s.half xy .low))

/-- `ADC A,r` (rule R271). -/
def execAdcR (r : Reg8) (s : State) : Result :=
  .next (s.aluAdc (s.reg8 r))

/-- `ADC A,(HL)` (rule R271). -/
def execAdcHL (s : State) : Result :=
  .next (s.aluAdc (s.memRead s.hl))

/-- `ADC A,n` (rule R271). -/
def execAdcN (n : Byte) (s : State) : Result :=
  .next (s.aluAdc n)

/-- `ADC A,(XY+d)` (rule R271). -/
def execAdcXYd (xy : XY) (d : Byte) (s : State) : Result :=
  .next (s.aluAdc (s.memRead (s.ea xy d)))

/-- `ADC A,XYH` (undocumented) (rule R271). -/
def execAdcXYH (xy : XY) (s : State) : Result :=
  .next (s.aluAdc (s.half xy .high))

/-- `ADC A,XYL` (undocumented) (rule R271). -/
def execAdcXYL (xy : XY) (s : State) : Result :=
  .next (s.aluAdc (s.half xy .low))

/-- `SUB r` (rule R272). -/
def execSubR (r : Reg8) (s : State) : Result :=
  .next (s.aluSub (s.reg8 r))

/-- `SUB (HL)` (rule R272). -/
def execSubHL (s : State) : Result :=
  .next (s.aluSub (s.memRead s.hl))

/-- `SUB n` (rule R272). -/
def execSubN (n : Byte) (s : State) : Result :=
  .next (s.aluSub n)

/-- `SUB (XY+d)` (rule R272). -/
def execSubXYd (xy : XY) (d : Byte) (s : State) : Result :=
  .next (s.aluSub (s.memRead (s.ea xy d)))

/-- `SUB XYH` (undocumented) (rule R272). -/
def execSubXYH (xy : XY) (s : State) : Result :=
  .next (s.aluSub (s.half xy .high))

/-- `SUB XYL` (undocumented) (rule R272). -/
def execSubXYL (xy : XY) (s : State) : Result :=
  .next (s.aluSub (s.half xy .low))

/-- `SBC A,r` (rule R273). -/
def execSbcR (r : Reg8) (s : State) : Result :=
  .next (s.aluSbc (s.reg8 r))

/-- `SBC A,(HL)` (rule R273). -/
def execSbcHL (s : State) : Result :=
  .next (s.aluSbc (s.memRead s.hl))

/-- `SBC A,n` (rule R273). -/
def execSbcN (n : Byte) (s : State) : Result :=
  .next (s.aluSbc n)

/-- `SBC A,(XY+d)` (rule R273). -/
def execSbcXYd (xy : XY) (d : Byte) (s : State) : Result :=
  .next (s.aluSbc (s.memRead (s.ea xy d)))

/-- `SBC A,XYH` (undocumented) (rule R273). -/
def execSbcXYH (xy : XY) (s : State) : Result :=
  .next (s.aluSbc (s.half xy .high))

/-- `SBC A,XYL` (undocumented) (rule R273). -/
def execSbcXYL (xy : XY) (s : State) : Result :=
  .next (s.aluSbc (s.half xy .low))

/-- `AND r` (rule R274). -/
def execAndR (r : Reg8) (s : State) : Result :=
  .next (s.aluAnd (s.reg8 r))

/-- `AND (HL)` (rule R274). -/
def execAndHL (s : State) : Result :=
  .next (s.aluAnd (s.memRead s.hl))

/-- `AND n` (rule R274). -/
def execAndN (n : Byte) (s : State) : Result :=
  .next (s.aluAnd n)

/-- `AND (XY+d)` (rule R274). -/
def execAndXYd (xy : XY) (d : Byte) (s : State) : Result :=
  .next (s.aluAnd (s.memRead (s.ea xy d)))

/-- `AND XYH` (undocumented) (rule R274). -/
def execAndXYH (xy : XY) (s : State) : Result :=
  .next (s.aluAnd (s.half xy .high))

/-- `AND XYL` (undocumented) (rule R274). -/
def execAndXYL (xy : XY) (s : State) : Result :=
  .next (s.aluAnd (s.half xy .low))

/-- `XOR r` (rule R275). -/
def execXorR (r : Reg8) (s : State) : Result :=
  .next (s.aluXor (s.reg8 r))

/-- `XOR (HL)` (rule R275). -/
def execXorHL (s : State) : Result :=
  .next (s.aluXor (s.memRead s.hl))

/-- `XOR n` (rule R275). -/
def execXorN (n : Byte) (s : State) : Result :=
  .next (s.aluXor n)

/-- `XOR (XY+d)` (rule R275). -/
def execXorXYd (xy : XY) (d : Byte) (s : State) : Result :=
  .next (s.aluXor (s.memRead (s.ea xy d)))

/-- `XOR XYH` (undocumented) (rule R275). -/
def execXorXYH (xy : XY) (s : State) : Result :=
  .next (s.aluXor (s.half xy .high))

/-- `XOR XYL` (undocumented) (rule R275). -/
def execXorXYL (xy : XY) (s : State) : Result :=
  .next (s.aluXor (s.half xy .low))

/-- `OR r` (rule R276). -/
def execOrR (r : Reg8) (s : State) : Result :=
  .next (s.aluOr (s.reg8 r))

/-- `OR (HL)` (rule R276). -/
def execOrHL (s : State) : Result :=
  .next (s.aluOr (s.memRead s.hl))

/-- `OR n` (rule R276). -/
def execOrN (n : Byte) (s : State) : Result :=
  .next (s.aluOr n)

/-- `OR (XY+d)` (rule R276). -/
def execOrXYd (xy : XY) (d : Byte) (s : State) : Result :=
  .next (s.aluOr (s.memRead (s.ea xy d)))

/-- `OR XYH` (undocumented) (rule R276). -/
def execOrXYH (xy : XY) (s : State) : Result :=
  .next (s.aluOr (s.half xy .high))

/-- `OR XYL` (undocumented) (rule R276). -/
def execOrXYL (xy : XY) (s : State) : Result :=
  .next (s.aluOr (s.half xy .low))

/-- `CP r` (rule R277). -/
def execCpR (r : Reg8) (s : State) : Result :=
  .next (s.aluCp (s.reg8 r))

/-- `CP (HL)` (rule R277). -/
def execCpHL (s : State) : Result :=
  .next (s.aluCp (s.memRead s.hl))

/-- `CP n` (rule R277). -/
def execCpN (n : Byte) (s : State) : Result :=
  .next (s.aluCp n)

/-- `CP (XY+d)` (rule R277). -/
def execCpXYd (xy : XY) (d : Byte) (s : State) : Result :=
  .next (s.aluCp (s.memRead (s.ea xy d)))

/-- `CP XYH` (undocumented) (rule R277). -/
def execCpXYH (xy : XY) (s : State) : Result :=
  .next (s.aluCp (s.half xy .high))

/-- `CP XYL` (undocumented) (rule R277). -/
def execCpXYL (xy : XY) (s : State) : Result :=
  .next (s.aluCp (s.half xy .low))

/-- `INC r` (rule R278). -/
def execIncR (r : Reg8) (s : State) : Result :=
  .next ((inc8 s.main.f (s.reg8 r)).into (s.setReg8 r))

/-- `INC (HL)` (rule R278). -/
def execIncHL (s : State) : Result :=
  .next ((inc8 s.main.f (s.memRead s.hl)).into (s.memWrite s.hl))

/-- `INC (XY+d)` (rule R278). -/
def execIncXYd (xy : XY) (d : Byte) (s : State) : Result :=
  .next ((inc8 s.main.f (s.memRead (s.ea xy d))).into (s.memWrite (s.ea xy d)))

/-- `INC XYH` (undocumented) (rule R278). -/
def execIncXYH (xy : XY) (s : State) : Result :=
  .next ((inc8 s.main.f (s.half xy .high)).into (s.setHalf xy .high))

/-- `INC XYL` (undocumented) (rule R278). -/
def execIncXYL (xy : XY) (s : State) : Result :=
  .next ((inc8 s.main.f (s.half xy .low)).into (s.setHalf xy .low))

/-- `DEC r` (rule R279). -/
def execDecR (r : Reg8) (s : State) : Result :=
  .next ((dec8 s.main.f (s.reg8 r)).into (s.setReg8 r))

/-- `DEC (HL)` (rule R279). -/
def execDecHL (s : State) : Result :=
  .next ((dec8 s.main.f (s.memRead s.hl)).into (s.memWrite s.hl))

/-- `DEC (XY+d)` (rule R279). -/
def execDecXYd (xy : XY) (d : Byte) (s : State) : Result :=
  .next ((dec8 s.main.f (s.memRead (s.ea xy d))).into (s.memWrite (s.ea xy d)))

/-- `DEC XYH` (undocumented) (rule R279). -/
def execDecXYH (xy : XY) (s : State) : Result :=
  .next ((dec8 s.main.f (s.half xy .high)).into (s.setHalf xy .high))

/-- `DEC XYL` (undocumented) (rule R279). -/
def execDecXYL (xy : XY) (s : State) : Result :=
  .next ((dec8 s.main.f (s.half xy .low)).into (s.setHalf xy .low))

end Sys2Proof.Machine
end

