-- ==== Sys2Proof/Machine/Bit.lean ====
section
/-! DEFINITION. The meanings of the bit test, set and reset group (46_rotate_shift_bit.md). When a meaning runs, PC already holds the
address of the byte after the instruction and R is already incremented (rules R27, R36, R121). -/

namespace Sys2Proof.Machine

/-- `BIT b,r` (rule R371). -/
def execBitBR (b : Bits3) (r : Reg8) (s : State) : Result :=
  .next (s.bitTest b (s.reg8 r) (s.reg8 r))

/-- `BIT b,(HL)`: Y and X from H (rule R372). -/
def execBitBHL (b : Bits3) (s : State) : Result :=
  .next (s.bitTest b (s.memRead s.hl) s.main.h)

/-- `BIT b,(XY+d)`: Y and X from the high byte of the address (rule R373). -/
def execBitBXYd (xy : XY) (d : Byte) (b : Bits3) (s : State) : Result :=
  .next (s.bitTest b (s.memRead (s.ea xy d)) (hi8 (s.ea xy d)))

/-- the undocumented copies of `BIT b,(XY+d)`, `z` the opcode's low field: no register is written (rule R373). -/
def execBitBXYdCopies (xy : XY) (d : Byte) (b : Bits3) (_z : Bits3) (s : State) : Result :=
  .next (s.bitTest b (s.memRead (s.ea xy d)) (hi8 (s.ea xy d)))

/-- `RES b,r` (rule R376). -/
def execResBR (b : Bits3) (r : Reg8) (s : State) : Result :=
  .next (s.setReg8 r (resetBit b (s.reg8 r)))

/-- `RES b,(HL)` (rule R376). -/
def execResBHL (b : Bits3) (s : State) : Result :=
  .next (s.memWrite s.hl (resetBit b (s.memRead s.hl)))

/-- `RES b,(XY+d)` (rule R376). -/
def execResBXYd (xy : XY) (d : Byte) (b : Bits3) (s : State) : Result :=
  .next (s.memWrite (s.ea xy d) (resetBit b (s.memRead (s.ea xy d))))

/-- `RES b,(XY+d),r` (undocumented) (rule R352). -/
def execResBXYdR (xy : XY) (d : Byte) (b : Bits3) (r : Reg8) (s : State) : Result :=
  .next (s.writeMemCopy (s.ea xy d) r (resetBit b (s.memRead (s.ea xy d))))

/-- `SET b,r` (rule R379). -/
def execSetBR (b : Bits3) (r : Reg8) (s : State) : Result :=
  .next (s.setReg8 r (setBit b (s.reg8 r)))

/-- `SET b,(HL)` (rule R379). -/
def execSetBHL (b : Bits3) (s : State) : Result :=
  .next (s.memWrite s.hl (setBit b (s.memRead s.hl)))

/-- `SET b,(XY+d)` (rule R379). -/
def execSetBXYd (xy : XY) (d : Byte) (b : Bits3) (s : State) : Result :=
  .next (s.memWrite (s.ea xy d) (setBit b (s.memRead (s.ea xy d))))

/-- `SET b,(XY+d),r` (undocumented) (rule R352). -/
def execSetBXYdR (xy : XY) (d : Byte) (b : Bits3) (r : Reg8) (s : State) : Result :=
  .next (s.writeMemCopy (s.ea xy d) r (setBit b (s.memRead (s.ea xy d))))

end Sys2Proof.Machine
end

