-- ==== Sys2Proof/Machine/Block.lean ====
section
/-! DEFINITION. The meanings of the block transfer and block search group (42_exchange_block.md). When a meaning runs, PC already holds the
address of the byte after the instruction and R is already incremented (rules R27, R36, R121). -/

namespace Sys2Proof.Machine

/-- `LDI` (rule R235). -/
def execLdi (s : State) : Result :=
  .next (s.blockCopy 1)

/-- `LDIR`, one iteration (rule R236). -/
def execLdir (s : State) : Result :=
  .next ((s.blockCopy 1).rewindIf (s.bc - 1 ≠ 0))

/-- `LDD` (rule R237). -/
def execLdd (s : State) : Result :=
  .next (s.blockCopy (-1))

/-- `LDDR`, one iteration (rule R238). -/
def execLddr (s : State) : Result :=
  .next ((s.blockCopy (-1)).rewindIf (s.bc - 1 ≠ 0))

/-- `CPI` (rule R239). -/
def execCpi (s : State) : Result :=
  .next (s.blockCompare 1)

/-- `CPIR`, one iteration (rule R240). -/
def execCpir (s : State) : Result :=
  .next ((s.blockCompare 1).rewindIf s.compareRepeats)

/-- `CPD` (rule R241). -/
def execCpd (s : State) : Result :=
  .next (s.blockCompare (-1))

/-- `CPDR`, one iteration (rule R242). -/
def execCpdr (s : State) : Result :=
  .next ((s.blockCompare (-1)).rewindIf s.compareRepeats)

end Sys2Proof.Machine
end

