-- ==== Sys2Proof/Machine/Control.lean ====
section
/-! DEFINITION. The meanings of the jump, call and return group (47_control_transfer.md). When a meaning runs, PC already holds the
address of the byte after the instruction and R is already incremented (rules R27, R36, R121). -/

namespace Sys2Proof.Machine

/-- `JP nn` (rule R391). -/
def execJpNN (nn : Word) (s : State) : Result :=
  .next (s.setPC nn)

/-- `JP cc,nn` (rule R392). -/
def execJpCcNN (cc : Cond) (nn : Word) (s : State) : Result :=
  .next (if s.cond cc then s.setPC nn else s)

/-- `JR e` (rule R393). -/
def execJrE (e : Byte) (s : State) : Result :=
  .next (s.jumpRelative e)

/-- `JR cc,e`, `cc` one of NZ, Z, NC, C (rule R394). -/
def execJrCcE (cc : Cond) (e : Byte) (s : State) : Result :=
  .next (if s.cond cc then s.jumpRelative e else s)

/-- `JP (HL)` (rule R395). -/
def execJpHL (s : State) : Result :=
  .next (s.setPC s.hl)

/-- `JP (XY)` (rule R396). -/
def execJpXY (xy : XY) (s : State) : Result :=
  .next (s.setPC (s.indexReg xy))

/-- `DJNZ e` (rule R397). -/
def execDjnzE (e : Byte) (s : State) : Result :=
  .next (if s.main.b - 1 ≠ 0 then (s.setReg8 .b (s.main.b - 1)).jumpRelative e else s.setReg8 .b (s.main.b - 1))

/-- `CALL nn` (rule R400). -/
def execCallNN (nn : Word) (s : State) : Result :=
  .next (s.call nn)

/-- `CALL cc,nn` (rule R401). -/
def execCallCcNN (cc : Cond) (nn : Word) (s : State) : Result :=
  .next (if s.cond cc then s.call nn else s)

/-- `RET` (rule R402). -/
def execRet (s : State) : Result :=
  .next (s.dropTop.setPC s.popped)

/-- `RET cc` (rule R403). -/
def execRetCc (cc : Cond) (s : State) : Result :=
  .next (if s.cond cc then s.dropTop.setPC s.popped else s)

/-- `RETI` (rule R408). -/
def execReti (s : State) : Result :=
  .next (s.returnFromInterrupt)

/-- `RETN` (rule R409). -/
def execRetn (s : State) : Result :=
  .next (s.returnFromInterrupt)

/-- the undocumented copies of `RETN`, `y` the opcode's middle field (rule R409). -/
def execRetnCopies (_y : Bits3) (s : State) : Result :=
  .next (s.returnFromInterrupt)

/-- `RST p`, p = 8 t (rule R410). -/
def execRstP (t : Bits3) (s : State) : Result :=
  .next (s.call (restartAddress t))

end Sys2Proof.Machine
end

