-- ==== Sys2Proof/Machine/Exchange.lean ====
section
/-! DEFINITION. The meanings of the exchange group (42_exchange_block.md). When a meaning runs, PC already holds the
address of the byte after the instruction and R is already incremented (rules R27, R36, R121). -/

namespace Sys2Proof.Machine

/-- `EX DE,HL` (rule R230). -/
def execExDEHL (s : State) : Result :=
  .next ((s.setDE s.hl).setHL s.de)

/-- `EX AF,AF'` (rule R231). -/
def execExAFAF (s : State) : Result :=
  .next (s.exchangeAF)

/-- `EXX` (rule R232). -/
def execExx (s : State) : Result :=
  .next (s.exchangeBanks)

/-- `EX (SP),HL` (rule R233). -/
def execExSPHL (s : State) : Result :=
  .next ((s.exchangeTop s.hl).setHL s.popped)

/-- `EX (SP),XY` (rule R234). -/
def execExSPXY (xy : XY) (s : State) : Result :=
  .next ((s.exchangeTop (s.indexReg xy)).setIndex xy s.popped)

end Sys2Proof.Machine
end

