-- ==== Sys2Proof/Machine/General.lean ====
section
/-! DEFINITION. The meanings of the general-purpose arithmetic and CPU control group (44_general_cpu_control.md). When a meaning runs, PC already holds the
address of the byte after the instruction and R is already incremented (rules R27, R36, R121). -/

namespace Sys2Proof.Machine

/-- `DAA` (rule R300). -/
def execDaa (s : State) : Result :=
  .next (s.setAF (decimalAdjust s.main.a s.main.f))

/-- `CPL` (rule R301). -/
def execCpl (s : State) : Result :=
  .next (s.setAF (complement s.main.a s.main.f))

/-- `NEG` (rule R302). -/
def execNeg (s : State) : Result :=
  .next (s.setAF (sub8 0 s.main.a false))

/-- the undocumented copies of `NEG`, `y` the opcode's middle field (rule R302). -/
def execNegCopies (_y : Bits3) (s : State) : Result :=
  .next (s.setAF (sub8 0 s.main.a false))

/-- `CCF` (rule R303). -/
def execCcf (s : State) : Result :=
  .next (s.setF (ccfFlags s.main.a s.main.f))

/-- `SCF` (rule R304). -/
def execScf (s : State) : Result :=
  .next (s.setF (scfFlags s.main.a s.main.f))

/-- `NOP` (rule R305). -/
def execNop (s : State) : Result :=
  .next s

/-- `HALT` (rule R306). -/
def execHalt (s : State) : Result :=
  .next (s.setHalt true)

/-- `DI` (rule R307). -/
def execDi (s : State) : Result :=
  .next (s.setIFFs false false)

/-- `EI` (rule R308). -/
def execEi (s : State) : Result :=
  .next ((s.setIFFs true true).setEiDelay true)

/-- `IM 0` (rule R309). -/
def execIm0 (s : State) : Result :=
  .next (s.setIM .im0)

/-- `IM 1` (rule R309). -/
def execIm1 (s : State) : Result :=
  .next (s.setIM .im1)

/-- `IM 2` (rule R309). -/
def execIm2 (s : State) : Result :=
  .next (s.setIM .im2)

/-- the undocumented copies of `IM 0`, `y` the opcode's middle field (rule R309). -/
def execIm0Copies (_y : Bits3) (s : State) : Result :=
  .next (s.setIM .im0)

/-- the undocumented copy `ED 76` of `IM 1` (rule R309). -/
def execIm1Copy (s : State) : Result :=
  .next (s.setIM .im1)

/-- the undocumented copy `ED 7E` of `IM 2` (rule R309). -/
def execIm2Copy (s : State) : Result :=
  .next (s.setIM .im2)

/-- `ED NOP` (undocumented), `op` its second byte (rule R311). -/
def execEdNop (_op : Byte) (s : State) : Result :=
  .next s

end Sys2Proof.Machine
end

