-- ==== Sys2Proof/Machine/InOut.lean ====
section
/-! DEFINITION. The meanings of the input and output group (48_io.md). When a meaning runs, PC already holds the
address of the byte after the instruction and R is already incremented (rules R27, R36, R121). -/

namespace Sys2Proof.Machine

/-- `IN A,(n)` (rule R420). -/
def execInAN (n : Byte) (s : State) : Result :=
  .next ((s.portIn n s.main.a).into State.setA)

/-- `IN r,(C)` (rule R421). -/
def execInRC (r : Reg8) (s : State) : Result :=
  .next ((s.portIn s.main.c s.main.b).into (fun s v => (s.setReg8 r v).setF (inFlags v s.main.f)))

/-- `IN F,(C)` (undocumented): flags only (rule R422). -/
def execInFC (s : State) : Result :=
  .next ((s.portIn s.main.c s.main.b).into (fun s v => s.setF (inFlags v s.main.f)))

/-- `OUT (n),A` (rule R423). -/
def execOutNA (n : Byte) (s : State) : Result :=
  .next (s.portOut n s.main.a s.main.a)

/-- `OUT (C),r` (rule R424). -/
def execOutCR (r : Reg8) (s : State) : Result :=
  .next (s.portOut s.main.c s.main.b (s.reg8 r))

/-- `OUT (C),0` (undocumented) (rule R426). -/
def execOutC0 (s : State) : Result :=
  .next (s.portOut s.main.c s.main.b 0)

/-- `INI` (rule R428). -/
def execIni (s : State) : Result :=
  .next (s.blockIn 1)

/-- `INIR`, one iteration (rule R431). -/
def execInir (s : State) : Result :=
  .next ((s.blockIn 1).rewindIf (s.main.b - 1 ≠ 0))

/-- `IND` (rule R429). -/
def execInd (s : State) : Result :=
  .next (s.blockIn (-1))

/-- `INDR`, one iteration (rule R432). -/
def execIndr (s : State) : Result :=
  .next ((s.blockIn (-1)).rewindIf (s.main.b - 1 ≠ 0))

/-- `OUTI` (rule R433). -/
def execOuti (s : State) : Result :=
  .next (s.blockOut 1)

/-- `OTIR`, one iteration (rule R435). -/
def execOtir (s : State) : Result :=
  .next ((s.blockOut 1).rewindIf (s.main.b - 1 ≠ 0))

/-- `OUTD` (rule R434). -/
def execOutd (s : State) : Result :=
  .next (s.blockOut (-1))

/-- `OTDR`, one iteration (rule R436). -/
def execOtdr (s : State) : Result :=
  .next ((s.blockOut (-1)).rewindIf (s.main.b - 1 ≠ 0))

end Sys2Proof.Machine
end

