-- ==== Sys2Proof/Machine/Load16.lean ====
section
/-! DEFINITION. The meanings of the 16-bit load group, PUSH and POP (41_load16_stack.md). When a meaning runs, PC already holds the
address of the byte after the instruction and R is already incremented (rules R27, R36, R121). -/

namespace Sys2Proof.Machine

/-- `LD dd,nn` (rule R200). -/
def execLdDDNN (dd : PairDD) (nn : Word) (s : State) : Result :=
  .next (s.setDD dd nn)

/-- `LD XY,nn` (rule R201). -/
def execLdXYNN (xy : XY) (nn : Word) (s : State) : Result :=
  .next (s.setIndex xy nn)

/-- `LD HL,(nn)` (rule R202). -/
def execLdHLNN (nn : Word) (s : State) : Result :=
  .next (s.setHL (s.memRead16 nn))

/-- `LD dd,(nn)` (rule R203). -/
def execLdDDMem (dd : PairDD) (nn : Word) (s : State) : Result :=
  .next (s.setDD dd (s.memRead16 nn))

/-- `LD XY,(nn)` (rule R204). -/
def execLdXYMem (xy : XY) (nn : Word) (s : State) : Result :=
  .next (s.setIndex xy (s.memRead16 nn))

/-- `LD (nn),HL` (rule R205). -/
def execLdNNHL (nn : Word) (s : State) : Result :=
  .next (s.memWrite16 nn s.hl)

/-- `LD (nn),dd` (rule R206). -/
def execLdNNDD (nn : Word) (dd : PairDD) (s : State) : Result :=
  .next (s.memWrite16 nn (s.pairDD dd))

/-- `LD (nn),XY` (rule R207). -/
def execLdNNXY (xy : XY) (nn : Word) (s : State) : Result :=
  .next (s.memWrite16 nn (s.indexReg xy))

/-- `LD SP,HL` (rule R208). -/
def execLdSPHL (s : State) : Result :=
  .next (s.setSP s.hl)

/-- `LD SP,XY` (rule R209). -/
def execLdSPXY (xy : XY) (s : State) : Result :=
  .next (s.setSP (s.indexReg xy))

/-- `PUSH qq` (rule R210). -/
def execPushQQ (qq : PairQQ) (s : State) : Result :=
  .next (s.push16 (s.pairQQ qq))

/-- `PUSH XY` (rule R211). -/
def execPushXY (xy : XY) (s : State) : Result :=
  .next (s.push16 (s.indexReg xy))

/-- `POP qq` (rule R212). -/
def execPopQQ (qq : PairQQ) (s : State) : Result :=
  .next (s.dropTop.setQQ qq s.popped)

/-- `POP XY` (rule R213). -/
def execPopXY (xy : XY) (s : State) : Result :=
  .next (s.dropTop.setIndex xy s.popped)

end Sys2Proof.Machine
end

