-- ==== Sys2Proof/Machine/Load8.lean ====
section
/-! DEFINITION. The meanings of the 8-bit load group (40_load8.md). When a meaning runs, PC already holds the
address of the byte after the instruction and R is already incremented (rules R27, R36, R121). -/

namespace Sys2Proof.Machine

/-- `LD r,r'` (rule R160). -/
def execLdRR (r : Reg8) (r' : Reg8) (s : State) : Result :=
  .next (s.setReg8 r (s.reg8 r'))

/-- `LD r,n` (rule R161). -/
def execLdRN (r : Reg8) (n : Byte) (s : State) : Result :=
  .next (s.setReg8 r n)

/-- `LD r,(HL)` (rule R162). -/
def execLdRHL (r : Reg8) (s : State) : Result :=
  .next (s.setReg8 r (s.memRead s.hl))

/-- `LD r,(XY+d)` (the real H and L) (rule R163). -/
def execLdRXYd (xy : XY) (r : Reg8) (d : Byte) (s : State) : Result :=
  .next (s.setReg8 r (s.memRead (s.ea xy d)))

/-- `LD (HL),r` (rule R164). -/
def execLdHLR (r : Reg8) (s : State) : Result :=
  .next (s.memWrite s.hl (s.reg8 r))

/-- `LD (XY+d),r` (the real H and L) (rule R165). -/
def execLdXYdR (xy : XY) (r : Reg8) (d : Byte) (s : State) : Result :=
  .next (s.memWrite (s.ea xy d) (s.reg8 r))

/-- `LD (HL),n` (rule R166). -/
def execLdHLN (n : Byte) (s : State) : Result :=
  .next (s.memWrite s.hl n)

/-- `LD (XY+d),n` (rule R167). -/
def execLdXYdN (xy : XY) (d : Byte) (n : Byte) (s : State) : Result :=
  .next (s.memWrite (s.ea xy d) n)

/-- `LD A,(BC)` (rule R168). -/
def execLdABC (s : State) : Result :=
  .next (s.setA (s.memRead s.bc))

/-- `LD A,(DE)` (rule R169). -/
def execLdADE (s : State) : Result :=
  .next (s.setA (s.memRead s.de))

/-- `LD A,(nn)` (rule R170). -/
def execLdANN (nn : Word) (s : State) : Result :=
  .next (s.setA (s.memRead nn))

/-- `LD (BC),A` (rule R171). -/
def execLdBCA (s : State) : Result :=
  .next (s.memWrite s.bc s.main.a)

/-- `LD (DE),A` (rule R172). -/
def execLdDEA (s : State) : Result :=
  .next (s.memWrite s.de s.main.a)

/-- `LD (nn),A` (rule R173). -/
def execLdNNA (nn : Word) (s : State) : Result :=
  .next (s.memWrite nn s.main.a)

/-- `LD A,I` (rule R176). -/
def execLdAI (s : State) : Result :=
  .next (s.loadAFromControl s.i)

/-- `LD A,R`: R as the two fetch increments left it (rule R177). -/
def execLdAR (s : State) : Result :=
  .next (s.loadAFromControl s.r)

/-- `LD I,A` (rule R178). -/
def execLdIA (s : State) : Result :=
  .next (s.setI s.main.a)

/-- `LD R,A`: all eight bits (rule R179). -/
def execLdRA (s : State) : Result :=
  .next (s.setR s.main.a)

/-- `LD p,p'` (undocumented), at least one side an index half (rule R180). -/
def execLdPP (xy : XY) (p : PReg) (p' : PReg) (s : State) : Result :=
  .next (s.setPReg xy p (s.preg xy p'))

/-- `LD XYH,n` (undocumented) (rule R181). -/
def execLdXYHN (xy : XY) (n : Byte) (s : State) : Result :=
  .next (s.setHalf xy .high n)

/-- `LD XYL,n` (undocumented) (rule R181). -/
def execLdXYLN (xy : XY) (n : Byte) (s : State) : Result :=
  .next (s.setHalf xy .low n)

end Sys2Proof.Machine
end

