-- ==== Sys2Proof/Machine/Rotate.lean ====
section
/-! DEFINITION. The meanings of the rotate and shift group (46_rotate_shift_bit.md). When a meaning runs, PC already holds the
address of the byte after the instruction and R is already incremented (rules R27, R36, R121). -/

namespace Sys2Proof.Machine

/-- `RLCA` (rule R340). -/
def execRlca (s : State) : Result :=
  .next (s.rotateA .rlc)

/-- `RLA` (rule R341). -/
def execRla (s : State) : Result :=
  .next (s.rotateA .rl)

/-- `RRCA` (rule R342). -/
def execRrca (s : State) : Result :=
  .next (s.rotateA .rrc)

/-- `RRA` (rule R343). -/
def execRra (s : State) : Result :=
  .next (s.rotateA .rr)

/-- `RLC r` (rule R345). -/
def execRlcR (r : Reg8) (s : State) : Result :=
  .next (s.shiftReg .rlc r)

/-- `RLC (HL)` (rule R345). -/
def execRlcHL (s : State) : Result :=
  .next (s.shiftMem .rlc s.hl)

/-- `RLC (XY+d)` (rule R345). -/
def execRlcXYd (xy : XY) (d : Byte) (s : State) : Result :=
  .next (s.shiftMem .rlc (s.ea xy d))

/-- `RLC (XY+d),r` (undocumented) (rule R352). -/
def execRlcXYdR (xy : XY) (d : Byte) (r : Reg8) (s : State) : Result :=
  .next (s.shiftMemCopy .rlc (s.ea xy d) r)

/-- `RRC r` (rule R346). -/
def execRrcR (r : Reg8) (s : State) : Result :=
  .next (s.shiftReg .rrc r)

/-- `RRC (HL)` (rule R346). -/
def execRrcHL (s : State) : Result :=
  .next (s.shiftMem .rrc s.hl)

/-- `RRC (XY+d)` (rule R346). -/
def execRrcXYd (xy : XY) (d : Byte) (s : State) : Result :=
  .next (s.shiftMem .rrc (s.ea xy d))

/-- `RRC (XY+d),r` (undocumented) (rule R352). -/
def execRrcXYdR (xy : XY) (d : Byte) (r : Reg8) (s : State) : Result :=
  .next (s.shiftMemCopy .rrc (s.ea xy d) r)

/-- `RL r` (rule R347). -/
def execRlR (r : Reg8) (s : State) : Result :=
  .next (s.shiftReg .rl r)

/-- `RL (HL)` (rule R347). -/
def execRlHL (s : State) : Result :=
  .next (s.shiftMem .rl s.hl)

/-- `RL (XY+d)` (rule R347). -/
def execRlXYd (xy : XY) (d : Byte) (s : State) : Result :=
  .next (s.shiftMem .rl (s.ea xy d))

/-- `RL (XY+d),r` (undocumented) (rule R352). -/
def execRlXYdR (xy : XY) (d : Byte) (r : Reg8) (s : State) : Result :=
  .next (s.shiftMemCopy .rl (s.ea xy d) r)

/-- `RR r` (rule R348). -/
def execRrR (r : Reg8) (s : State) : Result :=
  .next (s.shiftReg .rr r)

/-- `RR (HL)` (rule R348). -/
def execRrHL (s : State) : Result :=
  .next (s.shiftMem .rr s.hl)

/-- `RR (XY+d)` (rule R348). -/
def execRrXYd (xy : XY) (d : Byte) (s : State) : Result :=
  .next (s.shiftMem .rr (s.ea xy d))

/-- `RR (XY+d),r` (undocumented) (rule R352). -/
def execRrXYdR (xy : XY) (d : Byte) (r : Reg8) (s : State) : Result :=
  .next (s.shiftMemCopy .rr (s.ea xy d) r)

/-- `SLA r` (rule R350). -/
def execSlaR (r : Reg8) (s : State) : Result :=
  .next (s.shiftReg .sla r)

/-- `SLA (HL)` (rule R350). -/
def execSlaHL (s : State) : Result :=
  .next (s.shiftMem .sla s.hl)

/-- `SLA (XY+d)` (rule R350). -/
def execSlaXYd (xy : XY) (d : Byte) (s : State) : Result :=
  .next (s.shiftMem .sla (s.ea xy d))

/-- `SLA (XY+d),r` (undocumented) (rule R352). -/
def execSlaXYdR (xy : XY) (d : Byte) (r : Reg8) (s : State) : Result :=
  .next (s.shiftMemCopy .sla (s.ea xy d) r)

/-- `SRA r` (rule R351). -/
def execSraR (r : Reg8) (s : State) : Result :=
  .next (s.shiftReg .sra r)

/-- `SRA (HL)` (rule R351). -/
def execSraHL (s : State) : Result :=
  .next (s.shiftMem .sra s.hl)

/-- `SRA (XY+d)` (rule R351). -/
def execSraXYd (xy : XY) (d : Byte) (s : State) : Result :=
  .next (s.shiftMem .sra (s.ea xy d))

/-- `SRA (XY+d),r` (undocumented) (rule R352). -/
def execSraXYdR (xy : XY) (d : Byte) (r : Reg8) (s : State) : Result :=
  .next (s.shiftMemCopy .sra (s.ea xy d) r)

/-- `SLL r` (undocumented) (rule R349). -/
def execSllR (r : Reg8) (s : State) : Result :=
  .next (s.shiftReg .sll r)

/-- `SLL (HL)` (undocumented) (rule R349). -/
def execSllHL (s : State) : Result :=
  .next (s.shiftMem .sll s.hl)

/-- `SLL (XY+d)` (undocumented) (rule R349). -/
def execSllXYd (xy : XY) (d : Byte) (s : State) : Result :=
  .next (s.shiftMem .sll (s.ea xy d))

/-- `SLL (XY+d),r` (undocumented) (rule R352). -/
def execSllXYdR (xy : XY) (d : Byte) (r : Reg8) (s : State) : Result :=
  .next (s.shiftMemCopy .sll (s.ea xy d) r)

/-- `SRL r` (rule R353). -/
def execSrlR (r : Reg8) (s : State) : Result :=
  .next (s.shiftReg .srl r)

/-- `SRL (HL)` (rule R353). -/
def execSrlHL (s : State) : Result :=
  .next (s.shiftMem .srl s.hl)

/-- `SRL (XY+d)` (rule R353). -/
def execSrlXYd (xy : XY) (d : Byte) (s : State) : Result :=
  .next (s.shiftMem .srl (s.ea xy d))

/-- `SRL (XY+d),r` (undocumented) (rule R352). -/
def execSrlXYdR (xy : XY) (d : Byte) (r : Reg8) (s : State) : Result :=
  .next (s.shiftMemCopy .srl (s.ea xy d) r)

/-- `RLD` (rule R360). -/
def execRld (s : State) : Result :=
  .next (s.rotateDigitLeft)

/-- `RRD` (rule R361). -/
def execRrd (s : State) : Result :=
  .next (s.rotateDigitRight)

end Sys2Proof.Machine
end

