-- ==== Sys2Proof/Machine/Run.lean ====
section
/-! DEFINITION. The effect of a finished lookup: the same meanings as `exec` calls, for the instruction inside a chain of
index prefixes (rules R134 to R136) and for the instruction an unfinished lookup or an interrupting device leads to. -/

namespace Sys2Proof.Machine

/-- The effect of `i` once its lookup is finished. A prefix byte alone is not a finished lookup; `resume` never hands one
to `run`, and here it is the run of prefixes that never ends (rule R139). -/
def run : Instr → State → Result
  | .ldRR r r', s => execLdRR r r' s
  | .ldRN r n, s => execLdRN r n s
  | .ldRHL r, s => execLdRHL r s
  | .ldRXYd xy r d, s => execLdRXYd xy r d s
  | .ldHLR r, s => execLdHLR r s
  | .ldXYdR xy r d, s => execLdXYdR xy r d s
  | .ldHLN n, s => execLdHLN n s
  | .ldXYdN xy d n, s => execLdXYdN xy d n s
  | .ldABC, s => execLdABC s
  | .ldADE, s => execLdADE s
  | .ldANN nn, s => execLdANN nn s
  | .ldBCA, s => execLdBCA s
  | .ldDEA, s => execLdDEA s
  | .ldNNA nn, s => execLdNNA nn s
  | .ldAI, s => execLdAI s
  | .ldAR, s => execLdAR s
  | .ldIA, s => execLdIA s
  | .ldRA, s => execLdRA s
  | .ldPP xy p p', s => execLdPP xy p p' s
  | .ldXYHN xy n, s => execLdXYHN xy n s
  | .ldXYLN xy n, s => execLdXYLN xy n s
  | .ldDDNN dd nn, s => execLdDDNN dd nn s
  | .ldXYNN xy nn, s => execLdXYNN xy nn s
  | .ldHLNN nn, s => execLdHLNN nn s
  | .ldDDMem dd nn, s => execLdDDMem dd nn s
  | .ldXYMem xy nn, s => execLdXYMem xy nn s
  | .ldNNHL nn, s => execLdNNHL nn s
  | .ldNNDD nn dd, s => execLdNNDD nn dd s
  | .ldNNXY xy nn, s => execLdNNXY xy nn s
  | .ldSPHL, s => execLdSPHL s
  | .ldSPXY xy, s => execLdSPXY xy s
  | .pushQQ qq, s => execPushQQ qq s
  | .pushXY xy, s => execPushXY xy s
  | .popQQ qq, s => execPopQQ qq s
  | .popXY xy, s => execPopXY xy s
  | .exDEHL, s => execExDEHL s
  | .exAFAF, s => execExAFAF s
  | .exx, s => execExx s
  | .exSPHL, s => execExSPHL s
  | .exSPXY xy, s => execExSPXY xy s
  | .ldi, s => execLdi s
  | .ldir, s => execLdir s
  | .ldd, s => execLdd s
  | .lddr, s => execLddr s
  | .cpi, s => execCpi s
  | .cpir, s => execCpir s
  | .cpd, s => execCpd s
  | .cpdr, s => execCpdr s
  | .addR r, s => execAddR r s
  | .addHL, s => execAddHL s
  | .addN n, s => execAddN n s
  | .addXYd xy d, s => execAddXYd xy d s
  | .addXYH xy, s => execAddXYH xy s
  | .addXYL xy, s => execAddXYL xy s
  | .adcR r, s => execAdcR r s
  | .adcHL, s => execAdcHL s
  | .adcN n, s => execAdcN n s
  | .adcXYd xy d, s => execAdcXYd xy d s
  | .adcXYH xy, s => execAdcXYH xy s
  | .adcXYL xy, s => execAdcXYL xy s
  | .subR r, s => execSubR r s
  | .subHL, s => execSubHL s
  | .subN n, s => execSubN n s
  | .subXYd xy d, s => execSubXYd xy d s
  | .subXYH xy, s => execSubXYH xy s
  | .subXYL xy, s => execSubXYL xy s
  | .sbcR r, s => execSbcR r s
  | .sbcHL, s => execSbcHL s
  | .sbcN n, s => execSbcN n s
  | .sbcXYd xy d, s => execSbcXYd xy d s
  | .sbcXYH xy, s => execSbcXYH xy s
  | .sbcXYL xy, s => execSbcXYL xy s
  | .andR r, s => execAndR r s
  | .andHL, s => execAndHL s
  | .andN n, s => execAndN n s
  | .andXYd xy d, s => execAndXYd xy d s
  | .andXYH xy, s => execAndXYH xy s
  | .andXYL xy, s => execAndXYL xy s
  | .xorR r, s => execXorR r s
  | .xorHL, s => execXorHL s
  | .xorN n, s => execXorN n s
  | .xorXYd xy d, s => execXorXYd xy d s
  | .xorXYH xy, s => execXorXYH xy s
  | .xorXYL xy, s => execXorXYL xy s
  | .orR r, s => execOrR r s
  | .orHL, s => execOrHL s
  | .orN n, s => execOrN n s
  | .orXYd xy d, s => execOrXYd xy d s
  | .orXYH xy, s => execOrXYH xy s
  | .orXYL xy, s => execOrXYL xy s
  | .cpR r, s => execCpR r s
  | .cpHL, s => execCpHL s
  | .cpN n, s => execCpN n s
  | .cpXYd xy d, s => execCpXYd xy d s
  | .cpXYH xy, s => execCpXYH xy s
  | .cpXYL xy, s => execCpXYL xy s
  | .incR r, s => execIncR r s
  | .incHL, s => execIncHL s
  | .incXYd xy d, s => execIncXYd xy d s
  | .incXYH xy, s => execIncXYH xy s
  | .incXYL xy, s => execIncXYL xy s
  | .decR r, s => execDecR r s
  | .decHL, s => execDecHL s
  | .decXYd xy d, s => execDecXYd xy d s
  | .decXYH xy, s => execDecXYH xy s
  | .decXYL xy, s => execDecXYL xy s
  | .daa, s => execDaa s
  | .cpl, s => execCpl s
  | .neg, s => execNeg s
  | .negCopies y, s => execNegCopies y s
  | .ccf, s => execCcf s
  | .scf, s => execScf s
  | .nop, s => execNop s
  | .halt, s => execHalt s
  | .di, s => execDi s
  | .ei, s => execEi s
  | .im0, s => execIm0 s
  | .im1, s => execIm1 s
  | .im2, s => execIm2 s
  | .im0Copies y, s => execIm0Copies y s
  | .im1Copy, s => execIm1Copy s
  | .im2Copy, s => execIm2Copy s
  | .edNop op, s => execEdNop op s
  | .addHLSS ss, s => execAddHLSS ss s
  | .addXYPP xy pp, s => execAddXYPP xy pp s
  | .adcHLSS ss, s => execAdcHLSS ss s
  | .sbcHLSS ss, s => execSbcHLSS ss s
  | .incSS ss, s => execIncSS ss s
  | .incXY xy, s => execIncXY xy s
  | .decSS ss, s => execDecSS ss s
  | .decXY xy, s => execDecXY xy s
  | .rlca, s => execRlca s
  | .rla, s => execRla s
  | .rrca, s => execRrca s
  | .rra, s => execRra s
  | .rlcR r, s => execRlcR r s
  | .rlcHL, s => execRlcHL s
  | .rlcXYd xy d, s => execRlcXYd xy d s
  | .rlcXYdR xy d r, s => execRlcXYdR xy d r s
  | .rrcR r, s => execRrcR r s
  | .rrcHL, s => execRrcHL s
  | .rrcXYd xy d, s => execRrcXYd xy d s
  | .rrcXYdR xy d r, s => execRrcXYdR xy d r s
  | .rlR r, s => execRlR r s
  | .rlHL, s => execRlHL s
  | .rlXYd xy d, s => execRlXYd xy d s
  | .rlXYdR xy d r, s => execRlXYdR xy d r s
  | .rrR r, s => execRrR r s
  | .rrHL, s => execRrHL s
  | .rrXYd xy d, s => execRrXYd xy d s
  | .rrXYdR xy d r, s => execRrXYdR xy d r s
  | .slaR r, s => execSlaR r s
  | .slaHL, s => execSlaHL s
  | .slaXYd xy d, s => execSlaXYd xy d s
  | .slaXYdR xy d r, s => execSlaXYdR xy d r s
  | .sraR r, s => execSraR r s
  | .sraHL, s => execSraHL s
  | .sraXYd xy d, s => execSraXYd xy d s
  | .sraXYdR xy d r, s => execSraXYdR xy d r s
  | .sllR r, s => execSllR r s
  | .sllHL, s => execSllHL s
  | .sllXYd xy d, s => execSllXYd xy d s
  | .sllXYdR xy d r, s => execSllXYdR xy d r s
  | .srlR r, s => execSrlR r s
  | .srlHL, s => execSrlHL s
  | .srlXYd xy d, s => execSrlXYd xy d s
  | .srlXYdR xy d r, s => execSrlXYdR xy d r s
  | .rld, s => execRld s
  | .rrd, s => execRrd s
  | .bitBR b r, s => execBitBR b r s
  | .bitBHL b, s => execBitBHL b s
  | .bitBXYd xy d b, s => execBitBXYd xy d b s
  | .bitBXYdCopies xy d b z, s => execBitBXYdCopies xy d b z s
  | .resBR b r, s => execResBR b r s
  | .resBHL b, s => execResBHL b s
  | .resBXYd xy d b, s => execResBXYd xy d b s
  | .resBXYdR xy d b r, s => execResBXYdR xy d b r s
  | .setBR b r, s => execSetBR b r s
  | .setBHL b, s => execSetBHL b s
  | .setBXYd xy d b, s => execSetBXYd xy d b s
  | .setBXYdR xy d b r, s => execSetBXYdR xy d b r s
  | .jpNN nn, s => execJpNN nn s
  | .jpCcNN cc nn, s => execJpCcNN cc nn s
  | .jrE e, s => execJrE e s
  | .jrCcE cc e, s => execJrCcE cc e s
  | .jpHL, s => execJpHL s
  | .jpXY xy, s => execJpXY xy s
  | .djnzE e, s => execDjnzE e s
  | .callNN nn, s => execCallNN nn s
  | .callCcNN cc nn, s => execCallCcNN cc nn s
  | .ret, s => execRet s
  | .retCc cc, s => execRetCc cc s
  | .reti, s => execReti s
  | .retn, s => execRetn s
  | .retnCopies y, s => execRetnCopies y s
  | .rstP t, s => execRstP t s
  | .inAN n, s => execInAN n s
  | .inRC r, s => execInRC r s
  | .inFC, s => execInFC s
  | .outNA n, s => execOutNA n s
  | .outCR r, s => execOutCR r s
  | .outC0, s => execOutC0 s
  | .ini, s => execIni s
  | .inir, s => execInir s
  | .ind, s => execInd s
  | .indr, s => execIndr s
  | .outi, s => execOuti s
  | .otir, s => execOtir s
  | .outd, s => execOutd s
  | .otdr, s => execOtdr s
  | .prefixCB, _ => .fault .unboundedPrefixRun
  | .prefixDD, _ => .fault .unboundedPrefixRun
  | .prefixED, _ => .fault .unboundedPrefixRun
  | .prefixFD, _ => .fault .unboundedPrefixRun
  | .prefixCBAfterIndex _, _ => .fault .unboundedPrefixRun
  | .indexAgain _ i, s => run i s
  | .edAfterIndex _ i, s => run i s
  | .indexNoEffect _ i, s => run i s

end Sys2Proof.Machine
end

