-- ==== Sys2Proof/Machine/Timing.lean ====
section
/-! DEFINITION. Timing: the R increments of an instruction's fetches (rule R130), its base cost in T-states (the
`Timing:` line of its rule, rule R593), the memory addresses its data cycles touch, and the wait states of rule R590. -/

namespace Sys2Proof.Machine

/-- The R increments of a table's forms without redundant prefixes (rule R130). -/
def tableIncrements (p : Config.Params) : Table → Nat
  | .main => 1
  | .cb | .ed | .xd => 2
  | .xdcb => match p.rIncDdcb with
    | .two => 2
    | .three => 3

/-- The R increments of the fetches of `i` (rules R36, R130). A prefix byte alone has been fetched once. -/
def rIncrements (p : Config.Params) : Instr → Nat
  | .indexAgain _ i => 1 + rIncrements p i
  | .edAfterIndex _ i => 1 + rIncrements p i
  | .indexNoEffect _ i => 1 + rIncrements p i
  | .ldRR _ _ => tableIncrements p .main
  | .ldRN _ _ => tableIncrements p .main
  | .ldRHL _ => tableIncrements p .main
  | .ldRXYd _ _ _ => tableIncrements p .xd
  | .ldHLR _ => tableIncrements p .main
  | .ldXYdR _ _ _ => tableIncrements p .xd
  | .ldHLN _ => tableIncrements p .main
  | .ldXYdN _ _ _ => tableIncrements p .xd
  | .ldABC => tableIncrements p .main
  | .ldADE => tableIncrements p .main
  | .ldANN _ => tableIncrements p .main
  | .ldBCA => tableIncrements p .main
  | .ldDEA => tableIncrements p .main
  | .ldNNA _ => tableIncrements p .main
  | .ldAI => tableIncrements p .ed
  | .ldAR => tableIncrements p .ed
  | .ldIA => tableIncrements p .ed
  | .ldRA => tableIncrements p .ed
  | .ldPP _ _ _ => tableIncrements p .xd
  | .ldXYHN _ _ => tableIncrements p .xd
  | .ldXYLN _ _ => tableIncrements p .xd
  | .ldDDNN _ _ => tableIncrements p .main
  | .ldXYNN _ _ => tableIncrements p .xd
  | .ldHLNN _ => tableIncrements p .main
  | .ldDDMem _ _ => tableIncrements p .ed
  | .ldXYMem _ _ => tableIncrements p .xd
  | .ldNNHL _ => tableIncrements p .main
  | .ldNNDD _ _ => tableIncrements p .ed
  | .ldNNXY _ _ => tableIncrements p .xd
  | .ldSPHL => tableIncrements p .main
  | .ldSPXY _ => tableIncrements p .xd
  | .pushQQ _ => tableIncrements p .main
  | .pushXY _ => tableIncrements p .xd
  | .popQQ _ => tableIncrements p .main
  | .popXY _ => tableIncrements p .xd
  | .exDEHL => tableIncrements p .main
  | .exAFAF => tableIncrements p .main
  | .exx => tableIncrements p .main
  | .exSPHL => tableIncrements p .main
  | .exSPXY _ => tableIncrements p .xd
  | .ldi => tableIncrements p .ed
  | .ldir => tableIncrements p .ed
  | .ldd => tableIncrements p .ed
  | .lddr => tableIncrements p .ed
  | .cpi => tableIncrements p .ed
  | .cpir => tableIncrements p .ed
  | .cpd => tableIncrements p .ed
  | .cpdr => tableIncrements p .ed
  | .addR _ => tableIncrements p .main
  | .addHL => tableIncrements p .main
  | .addN _ => tableIncrements p .main
  | .addXYd _ _ => tableIncrements p .xd
  | .addXYH _ => tableIncrements p .xd
  | .addXYL _ => tableIncrements p .xd
  | .adcR _ => tableIncrements p .main
  | .adcHL => tableIncrements p .main
  | .adcN _ => tableIncrements p .main
  | .adcXYd _ _ => tableIncrements p .xd
  | .adcXYH _ => tableIncrements p .xd
  | .adcXYL _ => tableIncrements p .xd
  | .subR _ => tableIncrements p .main
  | .subHL => tableIncrements p .main
  | .subN _ => tableIncrements p .main
  | .subXYd _ _ => tableIncrements p .xd
  | .subXYH _ => tableIncrements p .xd
  | .subXYL _ => tableIncrements p .xd
  | .sbcR _ => tableIncrements p .main
  | .sbcHL => tableIncrements p .main
  | .sbcN _ => tableIncrements p .main
  | .sbcXYd _ _ => tableIncrements p .xd
  | .sbcXYH _ => tableIncrements p .xd
  | .sbcXYL _ => tableIncrements p .xd
  | .andR _ => tableIncrements p .main
  | .andHL => tableIncrements p .main
  | .andN _ => tableIncrements p .main
  | .andXYd _ _ => tableIncrements p .xd
  | .andXYH _ => tableIncrements p .xd
  | .andXYL _ => tableIncrements p .xd
  | .xorR _ => tableIncrements p .main
  | .xorHL => tableIncrements p .main
  | .xorN _ => tableIncrements p .main
  | .xorXYd _ _ => tableIncrements p .xd
  | .xorXYH _ => tableIncrements p .xd
  | .xorXYL _ => tableIncrements p .xd
  | .orR _ => tableIncrements p .main
  | .orHL => tableIncrements p .main
  | .orN _ => tableIncrements p .main
  | .orXYd _ _ => tableIncrements p .xd
  | .orXYH _ => tableIncrements p .xd
  | .orXYL _ => tableIncrements p .xd
  | .cpR _ => tableIncrements p .main
  | .cpHL => tableIncrements p .main
  | .cpN _ => tableIncrements p .main
  | .cpXYd _ _ => tableIncrements p .xd
  | .cpXYH _ => tableIncrements p .xd
  | .cpXYL _ => tableIncrements p .xd
  | .incR _ => tableIncrements p .main
  | .incHL => tableIncrements p .main
  | .incXYd _ _ => tableIncrements p .xd
  | .incXYH _ => tableIncrements p .xd
  | .incXYL _ => tableIncrements p .xd
  | .decR _ => tableIncrements p .main
  | .decHL => tableIncrements p .main
  | .decXYd _ _ => tableIncrements p .xd
  | .decXYH _ => tableIncrements p .xd
  | .decXYL _ => tableIncrements p .xd
  | .daa => tableIncrements p .main
  | .cpl => tableIncrements p .main
  | .neg => tableIncrements p .ed
  | .negCopies _ => tableIncrements p .ed
  | .ccf => tableIncrements p .main
  | .scf => tableIncrements p .main
  | .nop => tableIncrements p .main
  | .halt => tableIncrements p .main
  | .di => tableIncrements p .main
  | .ei => tableIncrements p .main
  | .im0 => tableIncrements p .ed
  | .im1 => tableIncrements p .ed
  | .im2 => tableIncrements p .ed
  | .im0Copies _ => tableIncrements p .ed
  | .im1Copy => tableIncrements p .ed
  | .im2Copy => tableIncrements p .ed
  | .edNop _ => tableIncrements p .ed
  | .addHLSS _ => tableIncrements p .main
  | .addXYPP _ _ => tableIncrements p .xd
  | .adcHLSS _ => tableIncrements p .ed
  | .sbcHLSS _ => tableIncrements p .ed
  | .incSS _ => tableIncrements p .main
  | .incXY _ => tableIncrements p .xd
  | .decSS _ => tableIncrements p .main
  | .decXY _ => tableIncrements p .xd
  | .rlca => tableIncrements p .main
  | .rla => tableIncrements p .main
  | .rrca => tableIncrements p .main
  | .rra => tableIncrements p .main
  | .rlcR _ => tableIncrements p .cb
  | .rlcHL => tableIncrements p .cb
  | .rlcXYd _ _ => tableIncrements p .xdcb
  | .rlcXYdR _ _ _ => tableIncrements p .xdcb
  | .rrcR _ => tableIncrements p .cb
  | .rrcHL => tableIncrements p .cb
  | .rrcXYd _ _ => tableIncrements p .xdcb
  | .rrcXYdR _ _ _ => tableIncrements p .xdcb
  | .rlR _ => tableIncrements p .cb
  | .rlHL => tableIncrements p .cb
  | .rlXYd _ _ => tableIncrements p .xdcb
  | .rlXYdR _ _ _ => tableIncrements p .xdcb
  | .rrR _ => tableIncrements p .cb
  | .rrHL => tableIncrements p .cb
  | .rrXYd _ _ => tableIncrements p .xdcb
  | .rrXYdR _ _ _ => tableIncrements p .xdcb
  | .slaR _ => tableIncrements p .cb
  | .slaHL => tableIncrements p .cb
  | .slaXYd _ _ => tableIncrements p .xdcb
  | .slaXYdR _ _ _ => tableIncrements p .xdcb
  | .sraR _ => tableIncrements p .cb
  | .sraHL => tableIncrements p .cb
  | .sraXYd _ _ => tableIncrements p .xdcb
  | .sraXYdR _ _ _ => tableIncrements p .xdcb
  | .sllR _ => tableIncrements p .cb
  | .sllHL => tableIncrements p .cb
  | .sllXYd _ _ => tableIncrements p .xdcb
  | .sllXYdR _ _ _ => tableIncrements p .xdcb
  | .srlR _ => tableIncrements p .cb
  | .srlHL => tableIncrements p .cb
  | .srlXYd _ _ => tableIncrements p .xdcb
  | .srlXYdR _ _ _ => tableIncrements p .xdcb
  | .rld => tableIncrements p .ed
  | .rrd => tableIncrements p .ed
  | .bitBR _ _ => tableIncrements p .cb
  | .bitBHL _ => tableIncrements p .cb
  | .bitBXYd _ _ _ => tableIncrements p .xdcb
  | .bitBXYdCopies _ _ _ _ => tableIncrements p .xdcb
  | .resBR _ _ => tableIncrements p .cb
  | .resBHL _ => tableIncrements p .cb
  | .resBXYd _ _ _ => tableIncrements p .xdcb
  | .resBXYdR _ _ _ _ => tableIncrements p .xdcb
  | .setBR _ _ => tableIncrements p .cb
  | .setBHL _ => tableIncrements p .cb
  | .setBXYd _ _ _ => tableIncrements p .xdcb
  | .setBXYdR _ _ _ _ => tableIncrements p .xdcb
  | .jpNN _ => tableIncrements p .main
  | .jpCcNN _ _ => tableIncrements p .main
  | .jrE _ => tableIncrements p .main
  | .jrCcE _ _ => tableIncrements p .main
  | .jpHL => tableIncrements p .main
  | .jpXY _ => tableIncrements p .xd
  | .djnzE _ => tableIncrements p .main
  | .callNN _ => tableIncrements p .main
  | .callCcNN _ _ => tableIncrements p .main
  | .ret => tableIncrements p .main
  | .retCc _ => tableIncrements p .main
  | .reti => tableIncrements p .ed
  | .retn => tableIncrements p .ed
  | .retnCopies _ => tableIncrements p .ed
  | .rstP _ => tableIncrements p .main
  | .inAN _ => tableIncrements p .main
  | .inRC _ => tableIncrements p .ed
  | .inFC => tableIncrements p .ed
  | .outNA _ => tableIncrements p .main
  | .outCR _ => tableIncrements p .ed
  | .outC0 => tableIncrements p .ed
  | .ini => tableIncrements p .ed
  | .inir => tableIncrements p .ed
  | .ind => tableIncrements p .ed
  | .indr => tableIncrements p .ed
  | .outi => tableIncrements p .ed
  | .otir => tableIncrements p .ed
  | .outd => tableIncrements p .ed
  | .otdr => tableIncrements p .ed
  | .prefixCB => tableIncrements p .main
  | .prefixDD => tableIncrements p .main
  | .prefixED => tableIncrements p .main
  | .prefixFD => tableIncrements p .main
  | .prefixCBAfterIndex _ => tableIncrements p .xd

/-- The base cost in T-states, judged on the state before the operation (rules R18, R551). A prefix byte alone costs
nothing of its own: its time is part of the instruction the lookup finds. -/
def baseCost : Instr → State → Nat
  | .ldRR _ _, _ => 4
  | .ldRN _ _, _ => 7
  | .ldRHL _, _ => 7
  | .ldRXYd _ _ _, _ => 19
  | .ldHLR _, _ => 7
  | .ldXYdR _ _ _, _ => 19
  | .ldHLN _, _ => 10
  | .ldXYdN _ _ _, _ => 19
  | .ldABC, _ => 7
  | .ldADE, _ => 7
  | .ldANN _, _ => 13
  | .ldBCA, _ => 7
  | .ldDEA, _ => 7
  | .ldNNA _, _ => 13
  | .ldAI, _ => 9
  | .ldAR, _ => 9
  | .ldIA, _ => 9
  | .ldRA, _ => 9
  | .ldPP _ _ _, _ => 8
  | .ldXYHN _ _, _ => 11
  | .ldXYLN _ _, _ => 11
  | .ldDDNN _ _, _ => 10
  | .ldXYNN _ _, _ => 14
  | .ldHLNN _, _ => 16
  | .ldDDMem _ _, _ => 20
  | .ldXYMem _ _, _ => 20
  | .ldNNHL _, _ => 16
  | .ldNNDD _ _, _ => 20
  | .ldNNXY _ _, _ => 20
  | .ldSPHL, _ => 6
  | .ldSPXY _, _ => 10
  | .pushQQ _, _ => 11
  | .pushXY _, _ => 15
  | .popQQ _, _ => 10
  | .popXY _, _ => 14
  | .exDEHL, _ => 4
  | .exAFAF, _ => 4
  | .exx, _ => 4
  | .exSPHL, _ => 19
  | .exSPXY _, _ => 23
  | .ldi, _ => 16
  | .ldir, s => if s.bc - 1 ≠ 0 then 21 else 16
  | .ldd, _ => 16
  | .lddr, s => if s.bc - 1 ≠ 0 then 21 else 16
  | .cpi, _ => 16
  | .cpir, s => if s.compareRepeats then 21 else 16
  | .cpd, _ => 16
  | .cpdr, s => if s.compareRepeats then 21 else 16
  | .addR _, _ => 4
  | .addHL, _ => 7
  | .addN _, _ => 7
  | .addXYd _ _, _ => 19
  | .addXYH _, _ => 8
  | .addXYL _, _ => 8
  | .adcR _, _ => 4
  | .adcHL, _ => 7
  | .adcN _, _ => 7
  | .adcXYd _ _, _ => 19
  | .adcXYH _, _ => 8
  | .adcXYL _, _ => 8
  | .subR _, _ => 4
  | .subHL, _ => 7
  | .subN _, _ => 7
  | .subXYd _ _, _ => 19
  | .subXYH _, _ => 8
  | .subXYL _, _ => 8
  | .sbcR _, _ => 4
  | .sbcHL, _ => 7
  | .sbcN _, _ => 7
  | .sbcXYd _ _, _ => 19
  | .sbcXYH _, _ => 8
  | .sbcXYL _, _ => 8
  | .andR _, _ => 4
  | .andHL, _ => 7
  | .andN _, _ => 7
  | .andXYd _ _, _ => 19
  | .andXYH _, _ => 8
  | .andXYL _, _ => 8
  | .xorR _, _ => 4
  | .xorHL, _ => 7
  | .xorN _, _ => 7
  | .xorXYd _ _, _ => 19
  | .xorXYH _, _ => 8
  | .xorXYL _, _ => 8
  | .orR _, _ => 4
  | .orHL, _ => 7
  | .orN _, _ => 7
  | .orXYd _ _, _ => 19
  | .orXYH _, _ => 8
  | .orXYL _, _ => 8
  | .cpR _, _ => 4
  | .cpHL, _ => 7
  | .cpN _, _ => 7
  | .cpXYd _ _, _ => 19
  | .cpXYH _, _ => 8
  | .cpXYL _, _ => 8
  | .incR _, _ => 4
  | .incHL, _ => 11
  | .incXYd _ _, _ => 23
  | .incXYH _, _ => 8
  | .incXYL _, _ => 8
  | .decR _, _ => 4
  | .decHL, _ => 11
  | .decXYd _ _, _ => 23
  | .decXYH _, _ => 8
  | .decXYL _, _ => 8
  | .daa, _ => 4
  | .cpl, _ => 4
  | .neg, _ => 8
  | .negCopies _, _ => 8
  | .ccf, _ => 4
  | .scf, _ => 4
  | .nop, _ => 4
  | .halt, _ => 4
  | .di, _ => 4
  | .ei, _ => 4
  | .im0, _ => 8
  | .im1, _ => 8
  | .im2, _ => 8
  | .im0Copies _, _ => 8
  | .im1Copy, _ => 8
  | .im2Copy, _ => 8
  | .edNop _, _ => 8
  | .addHLSS _, _ => 11
  | .addXYPP _ _, _ => 15
  | .adcHLSS _, _ => 15
  | .sbcHLSS _, _ => 15
  | .incSS _, _ => 6
  | .incXY _, _ => 10
  | .decSS _, _ => 6
  | .decXY _, _ => 10
  | .rlca, _ => 4
  | .rla, _ => 4
  | .rrca, _ => 4
  | .rra, _ => 4
  | .rlcR _, _ => 8
  | .rlcHL, _ => 15
  | .rlcXYd _ _, _ => 23
  | .rlcXYdR _ _ _, _ => 23
  | .rrcR _, _ => 8
  | .rrcHL, _ => 15
  | .rrcXYd _ _, _ => 23
  | .rrcXYdR _ _ _, _ => 23
  | .rlR _, _ => 8
  | .rlHL, _ => 15
  | .rlXYd _ _, _ => 23
  | .rlXYdR _ _ _, _ => 23
  | .rrR _, _ => 8
  | .rrHL, _ => 15
  | .rrXYd _ _, _ => 23
  | .rrXYdR _ _ _, _ => 23
  | .slaR _, _ => 8
  | .slaHL, _ => 15
  | .slaXYd _ _, _ => 23
  | .slaXYdR _ _ _, _ => 23
  | .sraR _, _ => 8
  | .sraHL, _ => 15
  | .sraXYd _ _, _ => 23
  | .sraXYdR _ _ _, _ => 23
  | .sllR _, _ => 8
  | .sllHL, _ => 15
  | .sllXYd _ _, _ => 23
  | .sllXYdR _ _ _, _ => 23
  | .srlR _, _ => 8
  | .srlHL, _ => 15
  | .srlXYd _ _, _ => 23
  | .srlXYdR _ _ _, _ => 23
  | .rld, _ => 18
  | .rrd, _ => 18
  | .bitBR _ _, _ => 8
  | .bitBHL _, _ => 12
  | .bitBXYd _ _ _, _ => 20
  | .bitBXYdCopies _ _ _ _, _ => 20
  | .resBR _ _, _ => 8
  | .resBHL _, _ => 15
  | .resBXYd _ _ _, _ => 23
  | .resBXYdR _ _ _ _, _ => 23
  | .setBR _ _, _ => 8
  | .setBHL _, _ => 15
  | .setBXYd _ _ _, _ => 23
  | .setBXYdR _ _ _ _, _ => 23
  | .jpNN _, _ => 10
  | .jpCcNN _ _, _ => 10
  | .jrE _, _ => 12
  | .jrCcE cc _, s => if s.cond cc then 12 else 7
  | .jpHL, _ => 4
  | .jpXY _, _ => 8
  | .djnzE _, s => if s.main.b - 1 ≠ 0 then 13 else 8
  | .callNN _, _ => 17
  | .callCcNN cc _, s => if s.cond cc then 17 else 10
  | .ret, _ => 10
  | .retCc cc, s => if s.cond cc then 11 else 5
  | .reti, _ => 14
  | .retn, _ => 14
  | .retnCopies _, _ => 14
  | .rstP _, _ => 11
  | .inAN _, _ => 11
  | .inRC _, _ => 12
  | .inFC, _ => 12
  | .outNA _, _ => 11
  | .outCR _, _ => 12
  | .outC0, _ => 12
  | .ini, _ => 16
  | .inir, s => if s.main.b - 1 ≠ 0 then 21 else 16
  | .ind, _ => 16
  | .indr, s => if s.main.b - 1 ≠ 0 then 21 else 16
  | .outi, _ => 16
  | .otir, s => if s.main.b - 1 ≠ 0 then 21 else 16
  | .outd, _ => 16
  | .otdr, s => if s.main.b - 1 ≠ 0 then 21 else 16
  | .prefixCB, _ => 0
  | .prefixDD, _ => 0
  | .prefixED, _ => 0
  | .prefixFD, _ => 0
  | .prefixCBAfterIndex _, _ => 0
  | .indexAgain _ i, s => 4 + baseCost i s
  | .edAfterIndex _ i, s => 4 + baseCost i s
  | .indexNoEffect _ i, s => 4 + baseCost i s

/-- The addresses of the data accesses of `i`, in the order of its rule (rules R91, R94), judged on the state before the
operation. -/
def dataAddrs : Instr → State → List Word
  | .ldRR _ _, _ => []
  | .ldRN _ _, _ => []
  | .ldRHL _, s => [s.hl]
  | .ldRXYd xy _ d, s => [s.ea xy d]
  | .ldHLR _, s => [s.hl]
  | .ldXYdR xy _ d, s => [s.ea xy d]
  | .ldHLN _, s => [s.hl]
  | .ldXYdN xy d _, s => [s.ea xy d]
  | .ldABC, s => [s.bc]
  | .ldADE, s => [s.de]
  | .ldANN nn, _ => [nn]
  | .ldBCA, s => [s.bc]
  | .ldDEA, s => [s.de]
  | .ldNNA nn, _ => [nn]
  | .ldAI, _ => []
  | .ldAR, _ => []
  | .ldIA, _ => []
  | .ldRA, _ => []
  | .ldPP _ _ _, _ => []
  | .ldXYHN _ _, _ => []
  | .ldXYLN _ _, _ => []
  | .ldDDNN _ _, _ => []
  | .ldXYNN _ _, _ => []
  | .ldHLNN nn, _ => [nn, nn + 1]
  | .ldDDMem _ nn, _ => [nn, nn + 1]
  | .ldXYMem _ nn, _ => [nn, nn + 1]
  | .ldNNHL nn, _ => [nn, nn + 1]
  | .ldNNDD nn _, _ => [nn, nn + 1]
  | .ldNNXY _ nn, _ => [nn, nn + 1]
  | .ldSPHL, _ => []
  | .ldSPXY _, _ => []
  | .pushQQ _, s => [s.sp - 1, s.sp - 2]
  | .pushXY _, s => [s.sp - 1, s.sp - 2]
  | .popQQ _, s => [s.sp, s.sp + 1]
  | .popXY _, s => [s.sp, s.sp + 1]
  | .exDEHL, _ => []
  | .exAFAF, _ => []
  | .exx, _ => []
  | .exSPHL, s => [s.sp, s.sp + 1, s.sp + 1, s.sp]
  | .exSPXY _, s => [s.sp, s.sp + 1, s.sp + 1, s.sp]
  | .ldi, s => [s.hl, s.de]
  | .ldir, s => [s.hl, s.de]
  | .ldd, s => [s.hl, s.de]
  | .lddr, s => [s.hl, s.de]
  | .cpi, s => [s.hl]
  | .cpir, s => [s.hl]
  | .cpd, s => [s.hl]
  | .cpdr, s => [s.hl]
  | .addR _, _ => []
  | .addHL, s => [s.hl]
  | .addN _, _ => []
  | .addXYd xy d, s => [s.ea xy d]
  | .addXYH _, _ => []
  | .addXYL _, _ => []
  | .adcR _, _ => []
  | .adcHL, s => [s.hl]
  | .adcN _, _ => []
  | .adcXYd xy d, s => [s.ea xy d]
  | .adcXYH _, _ => []
  | .adcXYL _, _ => []
  | .subR _, _ => []
  | .subHL, s => [s.hl]
  | .subN _, _ => []
  | .subXYd xy d, s => [s.ea xy d]
  | .subXYH _, _ => []
  | .subXYL _, _ => []
  | .sbcR _, _ => []
  | .sbcHL, s => [s.hl]
  | .sbcN _, _ => []
  | .sbcXYd xy d, s => [s.ea xy d]
  | .sbcXYH _, _ => []
  | .sbcXYL _, _ => []
  | .andR _, _ => []
  | .andHL, s => [s.hl]
  | .andN _, _ => []
  | .andXYd xy d, s => [s.ea xy d]
  | .andXYH _, _ => []
  | .andXYL _, _ => []
  | .xorR _, _ => []
  | .xorHL, s => [s.hl]
  | .xorN _, _ => []
  | .xorXYd xy d, s => [s.ea xy d]
  | .xorXYH _, _ => []
  | .xorXYL _, _ => []
  | .orR _, _ => []
  | .orHL, s => [s.hl]
  | .orN _, _ => []
  | .orXYd xy d, s => [s.ea xy d]
  | .orXYH _, _ => []
  | .orXYL _, _ => []
  | .cpR _, _ => []
  | .cpHL, s => [s.hl]
  | .cpN _, _ => []
  | .cpXYd xy d, s => [s.ea xy d]
  | .cpXYH _, _ => []
  | .cpXYL _, _ => []
  | .incR _, _ => []
  | .incHL, s => [s.hl, s.hl]
  | .incXYd xy d, s => [s.ea xy d, s.ea xy d]
  | .incXYH _, _ => []
  | .incXYL _, _ => []
  | .decR _, _ => []
  | .decHL, s => [s.hl, s.hl]
  | .decXYd xy d, s => [s.ea xy d, s.ea xy d]
  | .decXYH _, _ => []
  | .decXYL _, _ => []
  | .daa, _ => []
  | .cpl, _ => []
  | .neg, _ => []
  | .negCopies _, _ => []
  | .ccf, _ => []
  | .scf, _ => []
  | .nop, _ => []
  | .halt, _ => []
  | .di, _ => []
  | .ei, _ => []
  | .im0, _ => []
  | .im1, _ => []
  | .im2, _ => []
  | .im0Copies _, _ => []
  | .im1Copy, _ => []
  | .im2Copy, _ => []
  | .edNop _, _ => []
  | .addHLSS _, _ => []
  | .addXYPP _ _, _ => []
  | .adcHLSS _, _ => []
  | .sbcHLSS _, _ => []
  | .incSS _, _ => []
  | .incXY _, _ => []
  | .decSS _, _ => []
  | .decXY _, _ => []
  | .rlca, _ => []
  | .rla, _ => []
  | .rrca, _ => []
  | .rra, _ => []
  | .rlcR _, _ => []
  | .rlcHL, s => [s.hl, s.hl]
  | .rlcXYd xy d, s => [s.ea xy d, s.ea xy d]
  | .rlcXYdR xy d _, s => [s.ea xy d, s.ea xy d]
  | .rrcR _, _ => []
  | .rrcHL, s => [s.hl, s.hl]
  | .rrcXYd xy d, s => [s.ea xy d, s.ea xy d]
  | .rrcXYdR xy d _, s => [s.ea xy d, s.ea xy d]
  | .rlR _, _ => []
  | .rlHL, s => [s.hl, s.hl]
  | .rlXYd xy d, s => [s.ea xy d, s.ea xy d]
  | .rlXYdR xy d _, s => [s.ea xy d, s.ea xy d]
  | .rrR _, _ => []
  | .rrHL, s => [s.hl, s.hl]
  | .rrXYd xy d, s => [s.ea xy d, s.ea xy d]
  | .rrXYdR xy d _, s => [s.ea xy d, s.ea xy d]
  | .slaR _, _ => []
  | .slaHL, s => [s.hl, s.hl]
  | .slaXYd xy d, s => [s.ea xy d, s.ea xy d]
  | .slaXYdR xy d _, s => [s.ea xy d, s.ea xy d]
  | .sraR _, _ => []
  | .sraHL, s => [s.hl, s.hl]
  | .sraXYd xy d, s => [s.ea xy d, s.ea xy d]
  | .sraXYdR xy d _, s => [s.ea xy d, s.ea xy d]
  | .sllR _, _ => []
  | .sllHL, s => [s.hl, s.hl]
  | .sllXYd xy d, s => [s.ea xy d, s.ea xy d]
  | .sllXYdR xy d _, s => [s.ea xy d, s.ea xy d]
  | .srlR _, _ => []
  | .srlHL, s => [s.hl, s.hl]
  | .srlXYd xy d, s => [s.ea xy d, s.ea xy d]
  | .srlXYdR xy d _, s => [s.ea xy d, s.ea xy d]
  | .rld, s => [s.hl, s.hl]
  | .rrd, s => [s.hl, s.hl]
  | .bitBR _ _, _ => []
  | .bitBHL _, s => [s.hl]
  | .bitBXYd xy d _, s => [s.ea xy d]
  | .bitBXYdCopies xy d _ _, s => [s.ea xy d]
  | .resBR _ _, _ => []
  | .resBHL _, s => [s.hl, s.hl]
  | .resBXYd xy d _, s => [s.ea xy d, s.ea xy d]
  | .resBXYdR xy d _ _, s => [s.ea xy d, s.ea xy d]
  | .setBR _ _, _ => []
  | .setBHL _, s => [s.hl, s.hl]
  | .setBXYd xy d _, s => [s.ea xy d, s.ea xy d]
  | .setBXYdR xy d _ _, s => [s.ea xy d, s.ea xy d]
  | .jpNN _, _ => []
  | .jpCcNN _ _, _ => []
  | .jrE _, _ => []
  | .jrCcE _ _, _ => []
  | .jpHL, _ => []
  | .jpXY _, _ => []
  | .djnzE _, _ => []
  | .callNN _, s => [s.sp - 1, s.sp - 2]
  | .callCcNN cc _, s => if s.cond cc then [s.sp - 1, s.sp - 2] else []
  | .ret, s => [s.sp, s.sp + 1]
  | .retCc cc, s => if s.cond cc then [s.sp, s.sp + 1] else []
  | .reti, s => [s.sp, s.sp + 1]
  | .retn, s => [s.sp, s.sp + 1]
  | .retnCopies _, s => [s.sp, s.sp + 1]
  | .rstP _, s => [s.sp - 1, s.sp - 2]
  | .inAN _, _ => []
  | .inRC _, _ => []
  | .inFC, _ => []
  | .outNA _, _ => []
  | .outCR _, _ => []
  | .outC0, _ => []
  | .ini, s => [s.hl]
  | .inir, s => [s.hl]
  | .ind, s => [s.hl]
  | .indr, s => [s.hl]
  | .outi, s => [s.hl]
  | .otir, s => [s.hl]
  | .outd, s => [s.hl]
  | .otdr, s => [s.hl]
  | .prefixCB, _ => []
  | .prefixDD, _ => []
  | .prefixED, _ => []
  | .prefixFD, _ => []
  | .prefixCBAfterIndex _, _ => []
  | .indexAgain _ i, s => dataAddrs i s
  | .edAfterIndex _ i, s => dataAddrs i s
  | .indexNoEffect _ i, s => dataAddrs i s

/-! ## Wait states -/

/-- The delay at T-state `u` of a frame, from its first contended T-state and its line length (rule R591). -/
def ulaDelay (u first line : Nat) : Nat :=
  if u < first ∨ u - first ≥ 192 * line then 0
  else if (u - first) % line ≥ 128 then 0
  else [6, 5, 4, 3, 2, 1, 0, 0].getD ((u - first) % line % 8) 0

/-- The 48K candidate of rule R591. -/
def contend48 (t : Nat) : Nat := ulaDelay (t % 69888) 14335 224

/-- The 128K candidate of rule R591. -/
def contend128 (t : Nat) : Nat :=
  ulaDelay (t % 70908) 14361 228

/-- `Contend(t, a)` (rules R590, R100): a delay of 0 to 6 T-states, for addresses 0x4000 to 0x7FFF only. -/
def contend (c : Config.Contention) (t : Nat) (a : Word) : Nat :=
  if a.extractLsb' 14 2 = 1 then
    match c with
    | .none => 0
    | .ula48 => contend48 t
    | .ula128 => contend128 t
    | .free => Config.freeDelay t a % 7
  else 0

/-- The sum of rule R590 over a slot's memory cycles, the `j`-th first, `delayed` T-states of delay already given. -/
def contendCycles (c : Config.Contention) (base : Nat) (code : List Byte) (start : Nat) :
    (j delayed : Nat) → List Word → Nat
  | _, delayed, [] => delayed
  | j, delayed, a :: rest =>
    contendCycles c base code start (j + 1) (delayed + contend c (start + Config.cycleOffset base code j + delayed) a) rest

/-- The delay of a slot of base cost `base` that touches the addresses `cycles`, in order (rule R590). Under the default
it is 0. -/
def slotDelay (s : State) (base : Nat) (code : List Byte) (cycles : List Word) : Nat :=
  if s.params.contention = .none then 0 else contendCycles s.params.contention base code s.t 0 0 cycles

/-- The cost of a slot: its base cost and its delay (rule R590). -/
def costWith (s : State) (base : Nat) (code : List Byte) (cycles : List Word) : Nat :=
  base + slotDelay s base code cycles

/-- `n` addresses from `a` on. -/
def addrsFrom : Nat → Word → List Word
  | 0, _ => []
  | n + 1, a => a :: addrsFrom n (a + 1)

end Sys2Proof.Machine
end

