-- ==== Sys2Proof/Machine/Lookup.lean ====
section
/-! DEFINITION. The lookup of rule R121 over memory at PC, and the meanings of the opcode table's rows at which the lookup
continues (the last eight constructors of `Instr`). -/

namespace Sys2Proof.Machine

namespace State

/-- The `n` bytes from address `a` on, as routed (rule R71: PC wraps). -/
def bytesFrom (s : State) : Nat → Word → List Byte
  | 0, _ => []
  | n + 1, a => s.memRead a :: s.bytesFrom n (a + 1)

end State

/-- How many bytes the lookup can reach: every address once, and the bytes after the last prefix. A lookup that has not
ended after them has seen an index prefix at every address (rule R139). -/
def lookupWindow : Nat := 65540

namespace State

/-- The instruction whose first bytes are `sofar` and whose further bytes stand at PC (rule R121); `none` when the lookup
never ends (rule R139). -/
def lookup (s : State) (sofar : List Byte) : Option Instr :=
  match decode (sofar ++ s.bytesFrom lookupWindow s.pc) with
  | .ok (i, _) => if i.complete then some i else none
  | .error _ => none

/-- The state after the fetch of `i`, of which `bytes` bytes and `count` R increments were fetched before (rules R28, R36,
R130). -/
def fetched (s : State) (i : Instr) (bytes count : Nat) : State :=
  (s.setPC (s.pc + BitVec.ofNat 16 (i.size - bytes))).incR (rIncrements s.params i - count)

/-- Fetches the rest of the instruction whose first bytes are `sofar` and executes it; `count` R increments were made
before. -/
def resume (s : State) (sofar : List Byte) (count : Nat) : Result :=
  match s.lookup sofar with
  | some i => run i (s.fetched i sofar.length count)
  | none => .fault .unboundedPrefixRun

end State

/-- The byte `CB` alone (rule R132). -/
def execPrefixCB (s : State) : Result := s.resume [0xCB] 1

/-- The byte `DD` alone (rule R134). -/
def execPrefixDD (s : State) : Result := s.resume [0xDD] 1

/-- The byte `ED` alone (rule R133). -/
def execPrefixED (s : State) : Result := s.resume [0xED] 1

/-- The byte `FD` alone (rule R134). -/
def execPrefixFD (s : State) : Result := s.resume [0xFD] 1

/-- An index prefix and `CB`, two R increments (rules R130, R137). -/
def execPrefixCBAfterIndex (xy : XY) (s : State) : Result := s.resume [xy.code, 0xCB] 2

/-- An index prefix overridden by the one `rest` begins with (rule R136): `rest` executes unchanged. -/
def execIndexAgain (xy : XY) (rest : Instr) (s : State) : Result :=
  if rest.complete then run rest s else s.resume (xy.code :: rest.encode) (1 + rIncrements s.params rest)

/-- An index prefix in front of the ED instruction `rest` (rule R135): `rest` executes unchanged. -/
def execEdAfterIndex (xy : XY) (rest : Instr) (s : State) : Result :=
  if rest.complete then run rest s else s.resume (xy.code :: rest.encode) (1 + rIncrements s.params rest)

/-- An index prefix in front of a main-table instruction it does not change (rules R135, R312): `rest` executes
unchanged. -/
def execIndexNoEffect (xy : XY) (rest : Instr) (s : State) : Result :=
  if rest.complete then run rest s else s.resume (xy.code :: rest.encode) (1 + rIncrements s.params rest)

end Sys2Proof.Machine
end

