-- ==== Sys2Proof/Machine/Dispatch.lean ====
section
/-! DEFINITION. One arm per constructor of `Instr`, each one call of that instruction's meaning. -/

namespace Sys2Proof.Machine

def exec (i : Instr) (s : State) : Host.Outcome State Fault Refusal :=
  match i with
  -- 8-bit load group (40_load8.md)
  | .ldRR r r' => Sys2Proof.Machine.execLdRR r r' s
  | .ldRN r n => Sys2Proof.Machine.execLdRN r n s
  | .ldRHL r => Sys2Proof.Machine.execLdRHL r s
  | .ldRXYd xy r d => Sys2Proof.Machine.execLdRXYd xy r d s
  | .ldHLR r => Sys2Proof.Machine.execLdHLR r s
  | .ldXYdR xy r d => Sys2Proof.Machine.execLdXYdR xy r d s
  | .ldHLN n => Sys2Proof.Machine.execLdHLN n s
  | .ldXYdN xy d n => Sys2Proof.Machine.execLdXYdN xy d n s
  | .ldABC => Sys2Proof.Machine.execLdABC s
  | .ldADE => Sys2Proof.Machine.execLdADE s
  | .ldANN nn => Sys2Proof.Machine.execLdANN nn s
  | .ldBCA => Sys2Proof.Machine.execLdBCA s
  | .ldDEA => Sys2Proof.Machine.execLdDEA s
  | .ldNNA nn => Sys2Proof.Machine.execLdNNA nn s
  | .ldAI => Sys2Proof.Machine.execLdAI s
  | .ldAR => Sys2Proof.Machine.execLdAR s
  | .ldIA => Sys2Proof.Machine.execLdIA s
  | .ldRA => Sys2Proof.Machine.execLdRA s
  | .ldPP xy p p' => Sys2Proof.Machine.execLdPP xy p p' s
  | .ldXYHN xy n => Sys2Proof.Machine.execLdXYHN xy n s
  | .ldXYLN xy n => Sys2Proof.Machine.execLdXYLN xy n s
  -- 16-bit load group, PUSH and POP (41_load16_stack.md)
  | .ldDDNN dd nn => Sys2Proof.Machine.execLdDDNN dd nn s
  | .ldXYNN xy nn => Sys2Proof.Machine.execLdXYNN xy nn s
  | .ldHLNN nn => Sys2Proof.Machine.execLdHLNN nn s
  | .ldDDMem dd nn => Sys2Proof.Machine.execLdDDMem dd nn s
  | .ldXYMem xy nn => Sys2Proof.Machine.execLdXYMem xy nn s
  | .ldNNHL nn => Sys2Proof.Machine.execLdNNHL nn s
  | .ldNNDD nn dd => Sys2Proof.Machine.execLdNNDD nn dd s
  | .ldNNXY xy nn => Sys2Proof.Machine.execLdNNXY xy nn s
  | .ldSPHL => Sys2Proof.Machine.execLdSPHL s
  | .ldSPXY xy => Sys2Proof.Machine.execLdSPXY xy s
  | .pushQQ qq => Sys2Proof.Machine.execPushQQ qq s
  | .pushXY xy => Sys2Proof.Machine.execPushXY xy s
  | .popQQ qq => Sys2Proof.Machine.execPopQQ qq s
  | .popXY xy => Sys2Proof.Machine.execPopXY xy s
  -- exchange group (42_exchange_block.md)
  | .exDEHL => Sys2Proof.Machine.execExDEHL s
  | .exAFAF => Sys2Proof.Machine.execExAFAF s
  | .exx => Sys2Proof.Machine.execExx s
  | .exSPHL => Sys2Proof.Machine.execExSPHL s
  | .exSPXY xy => Sys2Proof.Machine.execExSPXY xy s
  -- block transfer and block search group (42_exchange_block.md)
  | .ldi => Sys2Proof.Machine.execLdi s
  | .ldir => Sys2Proof.Machine.execLdir s
  | .ldd => Sys2Proof.Machine.execLdd s
  | .lddr => Sys2Proof.Machine.execLddr s
  | .cpi => Sys2Proof.Machine.execCpi s
  | .cpir => Sys2Proof.Machine.execCpir s
  | .cpd => Sys2Proof.Machine.execCpd s
  | .cpdr => Sys2Proof.Machine.execCpdr s
  -- 8-bit arithmetic and logic group (43_alu8.md)
  | .addR r => Sys2Proof.Machine.execAddR r s
  | .addHL => Sys2Proof.Machine.execAddHL s
  | .addN n => Sys2Proof.Machine.execAddN n s
  | .addXYd xy d => Sys2Proof.Machine.execAddXYd xy d s
  | .addXYH xy => Sys2Proof.Machine.execAddXYH xy s
  | .addXYL xy => Sys2Proof.Machine.execAddXYL xy s
  | .adcR r => Sys2Proof.Machine.execAdcR r s
  | .adcHL => Sys2Proof.Machine.execAdcHL s
  | .adcN n => Sys2Proof.Machine.execAdcN n s
  | .adcXYd xy d => Sys2Proof.Machine.execAdcXYd xy d s
  | .adcXYH xy => Sys2Proof.Machine.execAdcXYH xy s
  | .adcXYL xy => Sys2Proof.Machine.execAdcXYL xy s
  | .subR r => Sys2Proof.Machine.execSubR r s
  | .subHL => Sys2Proof.Machine.execSubHL s
  | .subN n => Sys2Proof.Machine.execSubN n s
  | .subXYd xy d => Sys2Proof.Machine.execSubXYd xy d s
  | .subXYH xy => Sys2Proof.Machine.execSubXYH xy s
  | .subXYL xy => Sys2Proof.Machine.execSubXYL xy s
  | .sbcR r => Sys2Proof.Machine.execSbcR r s
  | .sbcHL => Sys2Proof.Machine.execSbcHL s
  | .sbcN n => Sys2Proof.Machine.execSbcN n s
  | .sbcXYd xy d => Sys2Proof.Machine.execSbcXYd xy d s
  | .sbcXYH xy => Sys2Proof.Machine.execSbcXYH xy s
  | .sbcXYL xy => Sys2Proof.Machine.execSbcXYL xy s
  | .andR r => Sys2Proof.Machine.execAndR r s
  | .andHL => Sys2Proof.Machine.execAndHL s
  | .andN n => Sys2Proof.Machine.execAndN n s
  | .andXYd xy d => Sys2Proof.Machine.execAndXYd xy d s
  | .andXYH xy => Sys2Proof.Machine.execAndXYH xy s
  | .andXYL xy => Sys2Proof.Machine.execAndXYL xy s
  | .xorR r => Sys2Proof.Machine.execXorR r s
  | .xorHL => Sys2Proof.Machine.execXorHL s
  | .xorN n => Sys2Proof.Machine.execXorN n s
  | .xorXYd xy d => Sys2Proof.Machine.execXorXYd xy d s
  | .xorXYH xy => Sys2Proof.Machine.execXorXYH xy s
  | .xorXYL xy => Sys2Proof.Machine.execXorXYL xy s
  | .orR r => Sys2Proof.Machine.execOrR r s
  | .orHL => Sys2Proof.Machine.execOrHL s
  | .orN n => Sys2Proof.Machine.execOrN n s
  | .orXYd xy d => Sys2Proof.Machine.execOrXYd xy d s
  | .orXYH xy => Sys2Proof.Machine.execOrXYH xy s
  | .orXYL xy => Sys2Proof.Machine.execOrXYL xy s
  | .cpR r => Sys2Proof.Machine.execCpR r s
  | .cpHL => Sys2Proof.Machine.execCpHL s
  | .cpN n => Sys2Proof.Machine.execCpN n s
  | .cpXYd xy d => Sys2Proof.Machine.execCpXYd xy d s
  | .cpXYH xy => Sys2Proof.Machine.execCpXYH xy s
  | .cpXYL xy => Sys2Proof.Machine.execCpXYL xy s
  | .incR r => Sys2Proof.Machine.execIncR r s
  | .incHL => Sys2Proof.Machine.execIncHL s
  | .incXYd xy d => Sys2Proof.Machine.execIncXYd xy d s
  | .incXYH xy => Sys2Proof.Machine.execIncXYH xy s
  | .incXYL xy => Sys2Proof.Machine.execIncXYL xy s
  | .decR r => Sys2Proof.Machine.execDecR r s
  | .decHL => Sys2Proof.Machine.execDecHL s
  | .decXYd xy d => Sys2Proof.Machine.execDecXYd xy d s
  | .decXYH xy => Sys2Proof.Machine.execDecXYH xy s
  | .decXYL xy => Sys2Proof.Machine.execDecXYL xy s
  -- general-purpose arithmetic and CPU control group (44_general_cpu_control.md)
  | .daa => Sys2Proof.Machine.execDaa s
  | .cpl => Sys2Proof.Machine.execCpl s
  | .neg => Sys2Proof.Machine.execNeg s
  | .negCopies y => Sys2Proof.Machine.execNegCopies y s
  | .ccf => Sys2Proof.Machine.execCcf s
  | .scf => Sys2Proof.Machine.execScf s
  | .nop => Sys2Proof.Machine.execNop s
  | .halt => Sys2Proof.Machine.execHalt s
  | .di => Sys2Proof.Machine.execDi s
  | .ei => Sys2Proof.Machine.execEi s
  | .im0 => Sys2Proof.Machine.execIm0 s
  | .im1 => Sys2Proof.Machine.execIm1 s
  | .im2 => Sys2Proof.Machine.execIm2 s
  | .im0Copies y => Sys2Proof.Machine.execIm0Copies y s
  | .im1Copy => Sys2Proof.Machine.execIm1Copy s
  | .im2Copy => Sys2Proof.Machine.execIm2Copy s
  | .edNop op => Sys2Proof.Machine.execEdNop op s
  -- 16-bit arithmetic group (45_alu16.md)
  | .addHLSS ss => Sys2Proof.Machine.execAddHLSS ss s
  | .addXYPP xy pp => Sys2Proof.Machine.execAddXYPP xy pp s
  | .adcHLSS ss => Sys2Proof.Machine.execAdcHLSS ss s
  | .sbcHLSS ss => Sys2Proof.Machine.execSbcHLSS ss s
  | .incSS ss => Sys2Proof.Machine.execIncSS ss s
  | .incXY xy => Sys2Proof.Machine.execIncXY xy s
  | .decSS ss => Sys2Proof.Machine.execDecSS ss s
  | .decXY xy => Sys2Proof.Machine.execDecXY xy s
  -- rotate and shift group (46_rotate_shift_bit.md)
  | .rlca => Sys2Proof.Machine.execRlca s
  | .rla => Sys2Proof.Machine.execRla s
  | .rrca => Sys2Proof.Machine.execRrca s
  | .rra => Sys2Proof.Machine.execRra s
  | .rlcR r => Sys2Proof.Machine.execRlcR r s
  | .rlcHL => Sys2Proof.Machine.execRlcHL s
  | .rlcXYd xy d => Sys2Proof.Machine.execRlcXYd xy d s
  | .rlcXYdR xy d r => Sys2Proof.Machine.execRlcXYdR xy d r s
  | .rrcR r => Sys2Proof.Machine.execRrcR r s
  | .rrcHL => Sys2Proof.Machine.execRrcHL s
  | .rrcXYd xy d => Sys2Proof.Machine.execRrcXYd xy d s
  | .rrcXYdR xy d r => Sys2Proof.Machine.execRrcXYdR xy d r s
  | .rlR r => Sys2Proof.Machine.execRlR r s
  | .rlHL => Sys2Proof.Machine.execRlHL s
  | .rlXYd xy d => Sys2Proof.Machine.execRlXYd xy d s
  | .rlXYdR xy d r => Sys2Proof.Machine.execRlXYdR xy d r s
  | .rrR r => Sys2Proof.Machine.execRrR r s
  | .rrHL => Sys2Proof.Machine.execRrHL s
  | .rrXYd xy d => Sys2Proof.Machine.execRrXYd xy d s
  | .rrXYdR xy d r => Sys2Proof.Machine.execRrXYdR xy d r s
  | .slaR r => Sys2Proof.Machine.execSlaR r s
  | .slaHL => Sys2Proof.Machine.execSlaHL s
  | .slaXYd xy d => Sys2Proof.Machine.execSlaXYd xy d s
  | .slaXYdR xy d r => Sys2Proof.Machine.execSlaXYdR xy d r s
  | .sraR r => Sys2Proof.Machine.execSraR r s
  | .sraHL => Sys2Proof.Machine.execSraHL s
  | .sraXYd xy d => Sys2Proof.Machine.execSraXYd xy d s
  | .sraXYdR xy d r => Sys2Proof.Machine.execSraXYdR xy d r s
  | .sllR r => Sys2Proof.Machine.execSllR r s
  | .sllHL => Sys2Proof.Machine.execSllHL s
  | .sllXYd xy d => Sys2Proof.Machine.execSllXYd xy d s
  | .sllXYdR xy d r => Sys2Proof.Machine.execSllXYdR xy d r s
  | .srlR r => Sys2Proof.Machine.execSrlR r s
  | .srlHL => Sys2Proof.Machine.execSrlHL s
  | .srlXYd xy d => Sys2Proof.Machine.execSrlXYd xy d s
  | .srlXYdR xy d r => Sys2Proof.Machine.execSrlXYdR xy d r s
  | .rld => Sys2Proof.Machine.execRld s
  | .rrd => Sys2Proof.Machine.execRrd s
  -- bit test, set and reset group (46_rotate_shift_bit.md)
  | .bitBR b r => Sys2Proof.Machine.execBitBR b r s
  | .bitBHL b => Sys2Proof.Machine.execBitBHL b s
  | .bitBXYd xy d b => Sys2Proof.Machine.execBitBXYd xy d b s
  | .bitBXYdCopies xy d b z => Sys2Proof.Machine.execBitBXYdCopies xy d b z s
  | .resBR b r => Sys2Proof.Machine.execResBR b r s
  | .resBHL b => Sys2Proof.Machine.execResBHL b s
  | .resBXYd xy d b => Sys2Proof.Machine.execResBXYd xy d b s
  | .resBXYdR xy d b r => Sys2Proof.Machine.execResBXYdR xy d b r s
  | .setBR b r => Sys2Proof.Machine.execSetBR b r s
  | .setBHL b => Sys2Proof.Machine.execSetBHL b s
  | .setBXYd xy d b => Sys2Proof.Machine.execSetBXYd xy d b s
  | .setBXYdR xy d b r => Sys2Proof.Machine.execSetBXYdR xy d b r s
  -- jump, call and return group (47_control_transfer.md)
  | .jpNN nn => Sys2Proof.Machine.execJpNN nn s
  | .jpCcNN cc nn => Sys2Proof.Machine.execJpCcNN cc nn s
  | .jrE e => Sys2Proof.Machine.execJrE e s
  | .jrCcE cc e => Sys2Proof.Machine.execJrCcE cc e s
  | .jpHL => Sys2Proof.Machine.execJpHL s
  | .jpXY xy => Sys2Proof.Machine.execJpXY xy s
  | .djnzE e => Sys2Proof.Machine.execDjnzE e s
  | .callNN nn => Sys2Proof.Machine.execCallNN nn s
  | .callCcNN cc nn => Sys2Proof.Machine.execCallCcNN cc nn s
  | .ret => Sys2Proof.Machine.execRet s
  | .retCc cc => Sys2Proof.Machine.execRetCc cc s
  | .reti => Sys2Proof.Machine.execReti s
  | .retn => Sys2Proof.Machine.execRetn s
  | .retnCopies y => Sys2Proof.Machine.execRetnCopies y s
  | .rstP t => Sys2Proof.Machine.execRstP t s
  -- input and output group (48_io.md)
  | .inAN n => Sys2Proof.Machine.execInAN n s
  | .inRC r => Sys2Proof.Machine.execInRC r s
  | .inFC => Sys2Proof.Machine.execInFC s
  | .outNA n => Sys2Proof.Machine.execOutNA n s
  | .outCR r => Sys2Proof.Machine.execOutCR r s
  | .outC0 => Sys2Proof.Machine.execOutC0 s
  | .ini => Sys2Proof.Machine.execIni s
  | .inir => Sys2Proof.Machine.execInir s
  | .ind => Sys2Proof.Machine.execInd s
  | .indr => Sys2Proof.Machine.execIndr s
  | .outi => Sys2Proof.Machine.execOuti s
  | .otir => Sys2Proof.Machine.execOtir s
  | .outd => Sys2Proof.Machine.execOutd s
  | .otdr => Sys2Proof.Machine.execOtdr s
  -- the rows of the opcode table at which the lookup continues (30_encoding.md)
  | .prefixCB => Sys2Proof.Machine.execPrefixCB s
  | .prefixDD => Sys2Proof.Machine.execPrefixDD s
  | .prefixED => Sys2Proof.Machine.execPrefixED s
  | .prefixFD => Sys2Proof.Machine.execPrefixFD s
  | .prefixCBAfterIndex xy => Sys2Proof.Machine.execPrefixCBAfterIndex xy s
  | .indexAgain xy rest => Sys2Proof.Machine.execIndexAgain xy rest s
  | .edAfterIndex xy rest => Sys2Proof.Machine.execEdAfterIndex xy rest s
  | .indexNoEffect xy rest => Sys2Proof.Machine.execIndexNoEffect xy rest s

end Sys2Proof.Machine
end

