-- ==== Sys2Proof/Machine/HostOps.lean ====
section
/-! DEFINITION. The host's operations between slots (rule R560), snapshots apart: machine-init, reset, the interrupt
latches, whole pages of RAM and ROM, the T counter, and the answers it lines up. -/

namespace Sys2Proof.Machine

/-! ## Whole pages -/

/-- The cells of a run of bytes from key `k` on. -/
def Memory.cells : (k : Nat) → List Byte → Memory
  | _, [] => []
  | k, v :: vs => if v = Memory.blank then Memory.cells (k + 1) vs else (k, v) :: Memory.cells (k + 1) vs

/-- The 16384 bytes of a page. -/
def Memory.page (m : Memory) (page : Nat) : List Byte :=
  (List.range pageSize).map fun o => m.read (pageKey page o)

/-- The memory with the bytes of a page replaced. -/
def Memory.setPage (m : Memory) (page : Nat) (bytes : List Byte) : Memory :=
  m.filter (fun c => decide (c.1 < pageKey page 0)) ++ Memory.cells (pageKey page 0) bytes ++
    m.filter (fun c => decide (pageKey (page + 1) 0 ≤ c.1))

/-- A page of blanks. -/
def blankPage : List Byte := List.replicate pageSize Memory.blank

/-- The RAM pages that exist (rule R6): all eight, or 0, 2 and 5. -/
def ramPages (is128 : Bool) : List Nat := if is128 then [0, 1, 2, 3, 4, 5, 6, 7] else [0, 2, 5]

/-- The RAM pages 48K mode does not have. -/
def absentPages : List Nat := [1, 3, 4, 6, 7]

/-- The memory without the pages 48K mode does not have (rule R503). -/
def Memory.dropAbsent (m : Memory) : Memory := absentPages.foldl (fun m p => m.setPage p blankPage) m

namespace State

/-- `read_page(bank)` (rule R78): wire bytes. -/
def readPage (s : State) (bank : Bits3) : List Byte := s.ram.page bank.toNat

/-- `write_page(bank, bytes)` (rule R78), for a bank that exists and 16384 bytes;
the contract gives no other call, and here one changes nothing. -/
def writePage (s : State) (bank : Bits3) (bytes : List Byte) : State :=
  if bytes.length = pageSize ∧ bank.toNat ∈ ramPages s.is128 then { s with ram := s.ram.setPage bank.toNat bytes } else s

/-- `rom_reload(slot, bytes)` (rules R75, R573): ROM bytes only. -/
def romReload (s : State) (slot : BitVec 1) (bytes : List Byte) : State :=
  if bytes.length = pageSize then { s with rom := s.rom.setPage slot.toNat bytes } else s

/-! ## One byte at a time, ROM included -/

/-- The byte `v` at the place address `a` is routed to, ROM or RAM: what the host can do by reloading a page with one byte
changed. -/
def place (s : State) (a : Word) (v : Byte) : State :=
  match route s.memorySelect a with
  | .rom p o => { s with rom := s.rom.write (pageKey p.toNat o.toNat) v }
  | .ram p o => { s with ram := s.ram.write (pageKey p.toNat o.toNat) v }

/-- The bytes `code` at the places the addresses from `a` on are routed to. -/
def placeAll (s : State) : Word → List Byte → State
  | _, [] => s
  | a, v :: code => (s.place a v).placeAll (a + 1) code

/-- No slot comes before the next instruction: not halted, no request pending (rule R539). -/
def atInstruction (s : State) : State := { s with halt := false, nmiPending := false, intPending := false }

end State

/-! ## Reset and machine-init -/

/-- `ResetGPR` (rule R7): the registers reset leaves unspecified. -/
structure ResetGPR where
  bc : Word
  de : Word
  hl : Word
  ix : Word
  iy : Word
  shadow : Bank
  deriving DecidableEq, Repr

/-- The value of `ResetGPR` in `State.reset`. DESIGN CHOICE, unsafe: assumption 3. -/
def ResetGPR.zero : ResetGPR := ⟨0, 0, 0, 0, 0, Bank.zero⟩

/-- MemorySelect after reset (rules R44, R50). -/
def resetPaging (is128 : Bool) : Byte := if is128 then 0x00 else 0x30

namespace State

/-- `reset()` with the draw `g` (rules R50, R570): Is128Mode, Border, RAM and ROM keep. -/
def resetWith (s : State) (g : ResetGPR) : State :=
  { s with
    main := { a := 0xFF, f := 0xFF, b := hi8 g.bc, c := lo8 g.bc, d := hi8 g.de, e := lo8 g.de, h := hi8 g.hl, l := lo8 g.hl }
    shadow := g.shadow
    ix := g.ix
    iy := g.iy
    sp := 0xFFFF
    pc := 0
    i := 0
    r := 0
    iff1 := false
    iff2 := false
    im := .im0
    halt := false
    eiDelay := false
    intPending := false
    nmiPending := false
    memorySelect := resetPaging s.is128
    t := 0 }

/-- `machine_init` (rules R51, R571): the host's choice of machine, of ROM and RAM contents and of the instance; Border and
`ResetGPR` are draws. -/
def machineInit (params : Config.Params) (is128 : Bool) (rom ram : Memory) (border : BitVec 3) (g : ResetGPR) : State :=
  { State.reset with
    params := params
    is128 := is128
    rom := rom
    ram := if is128 then ram else ram.dropAbsent
    border := border }.resetWith g

/-! ## Latches, T, answers -/

/-- `RaiseInt()` (rule R530). -/
def raiseInt (s : State) : State := { s with intPending := true }

/-- `ClearInt()` (rule R530). -/
def clearInt (s : State) : State := { s with intPending := false }

/-- `RaiseNmi()` (rule R530). -/
def raiseNmi (s : State) : State := { s with nmiPending := true }

/-- The host sets T (rule R46). -/
def setT (s : State) (n : Nat) : State := { s with t := n }

/-- The host lines up the answer to a port read (rules R441, R560). -/
def answerPort (s : State) (v : Byte) : State := { s with portAnswers := s.portAnswers ++ [v] }

/-- The host lines up a byte of the interrupting device (rules R536, R538, R560). -/
def answerBus (s : State) (v : Byte) : State := { s with busAnswers := s.busAnswers ++ [v] }

end State

end Sys2Proof.Machine
end

