-- ==== Sys2Proof/Machine/Interrupts.lean ====
section
/-! DEFINITION. The instruction slot (rules R539, R551): which of the four kinds the next slot is, what each costs
(rule R590), maskable acceptance by mode (rules R534 to R538), and the halted no-op (rule R552). -/

namespace Sys2Proof.Machine

/-- The four kinds of slot (rule R539). -/
inductive Slot where
  | nmi | int | haltedNop | instruction
  deriving DecidableEq, Repr

namespace State

/-- The kind of the next slot, in the priority order of rule R539. -/
def nextSlot (s : State) : Slot :=
  if s.nmiPending then .nmi
  else if s.intPending && s.iff1 && !s.eiDelay then .int
  else if s.halt then .haltedNop
  else .instruction

/-- The byte the device supplies in mode 0, and the state after it (rules R534, R536). -/
def mode0Byte (s : State) : Drawn := s.clearRequest.acknowledge.busByte

/-- Mode 0: the supplied byte begins an instruction whose further bytes stand at PC (rule R536). -/
def enterMode0 (s : State) : Result := s.mode0Byte.state.resume [s.mode0Byte.value] 0

/-- Maskable acceptance, by IM alone (rules R534, R535). -/
def enterInt (s : State) : Result :=
  match s.im with
  | .im0 => s.enterMode0
  | .im1 => .next s.enterMode1
  | .im2 => .next s.enterMode2

/-- The halted no-op (rule R552). -/
def haltedSlot (s : State) : State := (s.incR 1).setEiDelay false

/-- The state in which the instruction of an instruction slot executes: EiDelay cleared, PC after it, R counted
(rules R121, R551). -/
def afterFetch (s : State) (i : Instr) : State := (s.setEiDelay false).fetched i 0 0

/-! ## Costs -/

/-- The cost of executing `i`, fetched in `s`, `bytes` of its bytes not from memory and `extra` T-states on top
(rules R536, R590). Every value it reads is judged on the state before the slot. -/
def instrCost (s : State) (i : Instr) (bytes extra : Nat) : Nat :=
  costWith s (baseCost i s + extra) i.encode (addrsFrom (i.size - bytes) s.pc ++ dataAddrs i s)

/-- The two addresses an entry pushes PC to (rule R540). -/
def pushAddrs (s : State) : List Word := [s.sp - 1, s.sp - 2]

/-- The cost of a maskable acceptance (rules R536, R537, R538). It depends on the bus byte in mode 0, through the instruction, and in
mode 2, through the addresses of the vector when the instance has contention; the byte is not taken here, so a slot that is not
performed leaves it to be drawn again. DESIGN CHOICE, unsafe: assumption 18. -/
def intCost (s : State) : Nat :=
  match s.im with
  | .im0 => match s.mode0Byte.state.lookup [s.mode0Byte.value] with
    | some i => s.instrCost i 1 2
    | none => 0
  | .im1 => costWith s 13 [] s.pushAddrs
  | .im2 =>
    let vector := vectorAddress s.i s.clearRequest.acknowledge.busByte.value
    costWith s 19 [] (s.pushAddrs ++ [vector, vector + 1])

/-- The T-states of the next slot, contention included (rules R551, R590). A slot that has no step (rule R139) is given
0. -/
def slotCost (s : State) : Nat :=
  match s.nextSlot with
  | .nmi => costWith s 11 [] s.pushAddrs
  | .int => s.intCost
  | .haltedNop => 4
  | .instruction => match s.lookup [] with
    | some i => s.instrCost i 0 0
    | none => 0

end State

end Sys2Proof.Machine
end

