-- ==== Sys2Proof/Machine/Step.lean ====
section
/-! DEFINITION. One step: one slot of rule R551, whole, and the T-states it takes. -/

namespace Sys2Proof.Machine

/-- The effect of the next slot, T apart (rules R539, R551). -/
def State.perform (s : State) : Result :=
  match s.nextSlot with
  | .nmi => .next s.enterNmi
  | .int => s.enterInt
  | .haltedNop => .next s.haltedSlot
  | .instruction => match s.lookup [] with
    | some i => exec i (s.afterFetch i)
    | none => .fault .unboundedPrefixRun

/-- One slot (rule R551): `T <- T + cost`. -/
def step (s : State) : Result :=
  match s.perform with
  | .next s' => .next (s'.addT s.slotCost)
  | .fault f => .fault f
  | .refused r => .refused r

/-- `s` with the bytes of the table word `w`, and zero bytes after them, where the next slot fetches its instruction, and
nothing ahead of that instruction. -/
def State.withFetchWord (s : State) (nbits w : Nat) : State :=
  (s.placeAll s.pc (bytesOfNat ((nbits + 7) / 8) w ++ bytesOfNat tablePad 0)).atInstruction

end Sys2Proof.Machine
end

