-- ==== Sys2Proof/Machine/Budget.lean ====
section
/-! DEFINITION. `step(max_t_states)` of rule R551: slots until the next one would exceed the budget. -/

namespace Sys2Proof.Machine

/-- Slots from `s` on, `total` T-states spent; the answer is the state and the T-states consumed. A slot that does not fit changes
nothing, and a bus byte drawn to cost it, of mode 0 or of mode 2, is discarded (rule R551). The spec does not say what the next draw
then gives: here the byte stays first in the queue, or the free byte keeps its index, so the same byte is drawn again. DESIGN CHOICE,
unsafe: assumption 18. -/
def stepWithin (max : Nat) : (fuel total : Nat) → State → Host.Outcome (State × Nat) Fault Refusal
  | 0, total, s => .next (s, total)
  | n + 1, total, s =>
    match step s with
    | .fault f => .fault f
    | .refused r => .refused r
    | .next s' => if total + s.slotCost > max then .next (s, total) else stepWithin max n (total + s.slotCost) s'

/-- `step(max_t_states)` (rule R551). Every slot costs at least 4 T-states (rule R553), so the fuel does not run out. -/
def stepBudget (s : State) (max : Nat) : Host.Outcome (State × Nat) Fault Refusal :=
  stepWithin max (max / 4 + 1) 0 s

end Sys2Proof.Machine
end

