-- ==== Sys2Proof/Machine/Snapshot.lean ====
section
/-! DEFINITION. The snapshot codec (49_snapshot_codec.md): the run-length code, the file format, `Load`, `Save` and
`Screenshot`. -/

namespace Sys2Proof.Machine

/-! ## Run-length code -/

/-- `Decompress(src, maxSize)` (rule R480). -/
def decompress : List Byte → (maxSize : Nat) → List Byte
  | [], _ => []
  | b :: rest, maxSize =>
    if maxSize = 0 then []
    else if b = 0x00 ∧ rest.take 3 = [0xED, 0xED, 0x00] then []
    else if b = 0xED ∧ rest.head? = some 0xED then
      match rest with
      | _ :: count :: value :: rest' =>
        List.replicate (min count.toNat maxSize) value ++ decompress rest' (maxSize - min count.toNat maxSize)
      | _ => []
    else b :: decompress rest (maxSize - 1)

/-- The number of bytes at the front equal to `b`, at most `cap`. -/
def runLength (b : Byte) : (cap : Nat) → List Byte → Nat
  | cap + 1, x :: rest => if x = b then runLength b cap rest + 1 else 0
  | _, _ => 0

/-- `Compress` (rule R481), one element per unit of fuel. -/
def compressFuel : Nat → List Byte → List Byte
  | 0, _ => []
  | _, [] => []
  | n + 1, b :: rest =>
    let run := runLength b 255 (b :: rest)
    if 5 ≤ run ∨ (b = 0xED ∧ 2 ≤ run) then
      [0xED, 0xED, BitVec.ofNat 8 run, b] ++ compressFuel n ((b :: rest).drop run)
    else if b = 0xED then b :: (rest.take 1 ++ compressFuel n (rest.drop 1))
    else b :: compressFuel n rest

/-- `Compress(src)` (rule R481): every element takes at least one byte of the source. -/
def compress (src : List Byte) : List Byte := compressFuel src.length src

/-! ## The header -/

/-- `bytes[i]`, for a file that has it. -/
def byteAt (bytes : List Byte) (i : Nat) : Byte := bytes.getD i 0

/-- `u16(i)`, little-endian. -/
def wordAt (bytes : List Byte) (i : Nat) : Word := joinBytes (byteAt bytes (i + 1)) (byteAt bytes i)

/-- `f1` (rule R462). -/
def flags1 (bytes : List Byte) : Byte := if byteAt bytes 12 = 0xFF then 1 else byteAt bytes 12

/-- What the header says besides the registers (rules R465, R466). -/
structure Header where
  version1 : Bool
  is128 : Bool
  pc : Word
  paging : Byte
  bodyStart : Nat
  deriving DecidableEq, Repr

/-- `HardwareMode` (rule R466). -/
def hardwareIs128 (addlen : Nat) (mode : Byte) : Bool :=
  if addlen = 23 then decide (3 ≤ mode.toNat) else decide (4 ≤ mode.toNat)

/-- The extended header of versions 2 and 3 (rules R465, R500 step 3). -/
def parseExtended (bytes : List Byte) : Option Header :=
  let addlen := (wordAt bytes 30).toNat
  if bytes.length < 32 then none
  else if addlen ≠ 23 ∧ addlen ≠ 54 ∧ addlen ≠ 55 then none
  else if bytes.length < 32 + addlen then none
  else some
    { version1 := false
      is128 := hardwareIs128 addlen (byteAt bytes 34)
      pc := wordAt bytes 32
      paging := byteAt bytes 35
      bodyStart := 32 + addlen }

/-- Steps 1 to 3 of rule R500; `none` is `Failure`. -/
def parseHeader (bytes : List Byte) : Option Header :=
  if bytes.length < 30 then none
  else if byteAt bytes 29 &&& 3 = 3 then none
  else if wordAt bytes 6 ≠ 0 then
    some { version1 := true, is128 := false, pc := wordAt bytes 6, paging := 0, bodyStart := 30 }
  else parseExtended bytes

/-! ## Memory -/

/-- `PageToBank(id, Is128)` (rule R469). -/
def pageToBank (id : Byte) (is128 : Bool) : Option Nat :=
  if is128 then if 3 ≤ id.toNat ∧ id.toNat ≤ 10 then some (id.toNat - 3) else none
  else match id.toNat with
    | 4 => some 2
    | 5 => some 0
    | 8 => some 5
    | _ => none

/-- `BankToPage(bank, Is128)` (rule R469). -/
def bankToPage (bank : Nat) (is128 : Bool) : Byte :=
  if is128 then BitVec.ofNat 8 (bank + 3)
  else if bank = 2 then 4 else if bank = 0 then 5 else 8

/-- The bytes of data a block's length field announces (rule R467). -/
def blockLength (len : Word) : Nat := if len = 0xFFFF then pageSize else len.toNat

/-- The first `maxSize` bytes of a block's page: stored as they are for the length 0xFFFF, else compressed (rules R467,
R515). -/
def blockPage (len : Word) (data : List Byte) (maxSize : Nat) : List Byte :=
  if len = 0xFFFF then data.take maxSize else decompress data maxSize

/-- The block list of rule R467, from the bytes where it begins; `none` is `Failure`. Every block takes at least three
bytes, so the number of bytes is fuel enough. -/
def readBlocks (is128 : Bool) : (fuel : Nat) → List Byte → Memory → Option Memory
  | 0, _, ram => some ram
  | _, [], ram => some ram
  | n + 1, l :: h :: id :: rest, ram =>
    let len := joinBytes h l
    if len = 0 then some ram
    else if rest.length < blockLength len then none
    else
      let next := rest.drop (blockLength len)
      match pageToBank id is128 with
      | none => readBlocks is128 n next ram
      | some bank =>
        let page := blockPage len (rest.take (blockLength len)) pageSize
        if page.length = pageSize then readBlocks is128 n next (ram.setPage bank page) else none
  | _, _, _ => none

/-- The 49152 bytes of a version 1 body (rule R468), or their first `maxSize` (rule R515). -/
def bodyBytes (compressed : Bool) (body : List Byte) (maxSize : Nat) : List Byte :=
  if compressed then decompress body maxSize else body.take maxSize

/-- Whether a version 1 body is compressed (rules R462, R468). -/
def v1Compressed (p : Config.Params) (bytes : List Byte) : Bool := flags1 bytes &&& p.v1CompressedMask != 0

/-- The version 1 body (rule R468): pages 5, 2, 0. -/
def readBody (p : Config.Params) (bytes : List Byte) (ram : Memory) : Option Memory :=
  let mem := bodyBytes (v1Compressed p bytes) (bytes.drop 30) (3 * pageSize)
  if mem.length = 3 * pageSize then
    some (((ram.setPage 5 (mem.take pageSize)).setPage 2 ((mem.drop pageSize).take pageSize)).setPage 0
      (mem.drop (2 * pageSize)))
  else none

/-- The pages 48K mode does not have, from `fresh` (rule R503: unspecified contents after a change to 128K mode). -/
def freshPages (fresh ram : Memory) : Memory := absentPages.foldl (fun m p => m.setPage p (fresh.page p)) ram

/-- RAM before the file's pages are put in. -/
def ramForLoad (s : State) (is128 : Bool) (fresh : Memory) : Memory :=
  if is128 then if s.is128 then s.ram else freshPages fresh s.ram
  else if s.is128 then s.ram.dropAbsent else s.ram

/-! ## Load -/

/-- The main and the shadow bank of a file (rules R461, R502). -/
def loadMain (bytes : List Byte) : Bank where
  a := byteAt bytes 0
  f := byteAt bytes 1
  b := byteAt bytes 3
  c := byteAt bytes 2
  d := byteAt bytes 14
  e := byteAt bytes 13
  h := byteAt bytes 5
  l := byteAt bytes 4

def loadShadow (bytes : List Byte) : Bank where
  a := byteAt bytes 21
  f := byteAt bytes 22
  b := byteAt bytes 16
  c := byteAt bytes 15
  d := byteAt bytes 18
  e := byteAt bytes 17
  h := byteAt bytes 20
  l := byteAt bytes 19

/-- The interrupt mode of a file (rule R463); the header check has excluded the value 3. -/
def loadIM (bytes : List Byte) : IntMode :=
  match (byteAt bytes 29 &&& 3).toNat with
  | 0 => .im0
  | 1 => .im1
  | _ => .im2

/-- R of a file (rule R462): bit 7 from `f1`. -/
def loadR (bytes : List Byte) : Byte := (byteAt bytes 11 &&& 0x7F) ||| (flags1 bytes <<< 7)

/-- Registers and mode of a file (rules R502, R503). -/
def State.loadRegisters (s : State) (bytes : List Byte) (h : Header) (ram : Memory) : State :=
  { s with
    main := loadMain bytes
    shadow := loadShadow bytes
    ix := wordAt bytes 25
    iy := wordAt bytes 23
    sp := wordAt bytes 8
    pc := h.pc
    i := byteAt bytes 10
    r := loadR bytes
    iff1 := byteAt bytes 27 != 0
    iff2 := byteAt bytes 28 != 0
    im := loadIM bytes
    border := (flags1 bytes).extractLsb' 1 3
    halt := false
    eiDelay := false
    intPending := false
    nmiPending := false
    is128 := h.is128
    memorySelect := if h.is128 then h.paging else 0x30
    ram := ram }

/-- `Load(bytes, state)` (rule R500); `none` is `Failure` (rule R501), and the caller keeps `s` (rule R506). `fresh` is the
draw of rule R503. -/
def State.load (s : State) (bytes : List Byte) (fresh : Memory) : Option State :=
  match parseHeader bytes with
  | none => none
  | some h =>
    let ram := ramForLoad s h.is128 fresh
    match if h.version1 then readBody s.params bytes ram
      else readBlocks h.is128 (bytes.drop h.bodyStart).length (bytes.drop h.bodyStart) ram with
    | none => none
    | some ram' => some (s.loadRegisters bytes h ram')

/-! ## Save -/

/-- A word as two bytes, low byte first. -/
def wordBytes (w : Word) : List Byte := [lo8 w, hi8 w]

/-- A flip-flop in a file (rule R464). -/
def flipFlop (b : Bool) : Byte := if b then 1 else 0

/-- `Flags2` (rule R463). -/
def IntMode.code : IntMode → Byte
  | .im0 => 0
  | .im1 => 1
  | .im2 => 2

/-- The 55 header bytes of a version 2 file (rule R510). -/
def saveHeader (s : State) : List Byte :=
  [s.main.a, s.main.f] ++ wordBytes s.bc ++ wordBytes s.hl ++ [(0 : Byte), 0] ++ wordBytes s.sp ++
    [s.i, s.r &&& 0x7F, (s.r >>> 7) ||| (s.border.setWidth 8 <<< 1)] ++ wordBytes s.de ++
    wordBytes s.shadow.bc ++ wordBytes s.shadow.de ++ wordBytes s.shadow.hl ++ [s.shadow.a, s.shadow.f] ++
    wordBytes s.iy ++ wordBytes s.ix ++ [flipFlop s.iff1, flipFlop s.iff2, s.im.code] ++
    [(0x17 : Byte), 0x00] ++ wordBytes s.pc ++ [if s.is128 then (3 : Byte) else 0, s.memorySelect] ++ List.replicate 19 (0 : Byte)

/-- One memory block (rules R467, R510). -/
def saveBlock (is128 : Bool) (bank : Nat) (page : List Byte) : List Byte :=
  wordBytes (BitVec.ofNat 16 (compress page).length) ++ [bankToPage bank is128] ++ compress page

/-- The save order (rule R510). -/
def saveOrder (is128 : Bool) : List Nat := if is128 then [0, 1, 2, 3, 4, 5, 6, 7] else [2, 0, 5]

/-- `Save(state)` (rule R510). -/
def State.save (s : State) : List Byte :=
  saveHeader s ++ (saveOrder s.is128).flatMap fun bank => saveBlock s.is128 bank (s.ram.page bank)

/-! ## Screenshot -/

/-- The length of a screen (rule R6). -/
def screenSize : Nat := 6912

/-- The first 6912 bytes of the first block with page id 8 (rule R515). -/
def findScreen : (fuel : Nat) → List Byte → Option (List Byte)
  | n + 1, l :: h :: id :: rest =>
    let len := joinBytes h l
    if len = 0 then none
    else if rest.length < blockLength len then none
    else if id = 8 then some (blockPage len (rest.take (blockLength len)) screenSize)
    else findScreen n (rest.drop (blockLength len))
  | _, _ => none

/-- `Screenshot(bytes)` (rule R515); `none` is `Failure`. The parameters name the compressed bit of a version 1 file. -/
def screenshot (p : Config.Params) (bytes : List Byte) : Option (List Byte) :=
  match parseHeader bytes with
  | none => none
  | some h =>
    let body := bytes.drop h.bodyStart
    match if h.version1 then some (bodyBytes (v1Compressed p bytes) body screenSize)
      else findScreen body.length body with
    | none => none
    | some screen => if screen.length = screenSize then some screen else none

end Sys2Proof.Machine
end

