-- ==== Sys2Proof/Machine/Video.lean ====
section
/-! DEFINITION. The video pages as the renderer sees them (rules R82 to R86): a view computed from the wire bytes that RAM
holds (rule R85). -/

namespace Sys2Proof.Machine

/-- `expand(c, br)` (rule R84): bit 2 of `c` is green, bit 1 red, bit 0 blue; the result is RRGGBB. -/
def expandColor (c : Bits3) (br : Bool) : BitVec 6 :=
  BitVec.ofBool (c.getLsbD 1) ++ BitVec.ofBool (c.getLsbD 1 && br) ++
    BitVec.ofBool (c.getLsbD 2) ++ BitVec.ofBool (c.getLsbD 2 && br) ++
    BitVec.ofBool (c.getLsbD 0) ++ BitVec.ofBool (c.getLsbD 0 && br)

/-- `FromSpectrumColor(a)` (rule R84). -/
def fromSpectrumColor (a : Byte) : Word :=
  BitVec.ofBool (a.getLsbD 7) ++ BitVec.ofBool (a.getLsbD 6) ++ expandColor (a.extractLsb' 3 3) (a.getLsbD 6) ++
    (0 : BitVec 2) ++ expandColor (a.extractLsb' 0 3) (a.getLsbD 6)

/-- `ToSpectrumColor(w)` (rule R84). -/
def toSpectrumColor (w : Word) : Byte :=
  BitVec.ofBool (w.getLsbD 15) ++ BitVec.ofBool (w.getLsbD 14) ++ BitVec.ofBool (w.getLsbD 11) ++
    BitVec.ofBool (w.getLsbD 13) ++ BitVec.ofBool (w.getLsbD 9) ++ BitVec.ofBool (w.getLsbD 3) ++
    BitVec.ofBool (w.getLsbD 5) ++ BitVec.ofBool (w.getLsbD 1)

/-- What an offset of a video page holds for the renderer (rules R82, R84). -/
inductive VideoCell where
  /-- A byte of the pixel bitmap, offsets 0x0000 to 0x17FF. -/
  | pixels (v : Byte)
  /-- The host word of an attribute byte, offsets 0x1800 to 0x1AFF. -/
  | colors (w : Word)
  /-- Plain RAM, offsets 0x1B00 to 0x3FFF, which has no host word. -/
  | plain (v : Byte)
  deriving DecidableEq, Repr

/-- A cell of a video page from the wire byte RAM holds (rules R82, R84, R85). -/
def videoCell (off : BitVec 14) (v : Byte) : VideoCell :=
  if off.toNat < 0x1800 then .pixels v
  else if off.toNat < 0x1B00 then .colors (fromSpectrumColor v)
  else .plain v

/-- The video page the renderer displays (rule R86). -/
def displayedPage (ms : Byte) : Bits3 := if shadowScreen ms then 7 else 5

/-- A cell of the displayed page. -/
def State.displayed (s : State) (off : BitVec 14) : VideoCell :=
  videoCell off (s.ram.read (pageKey (displayedPage s.memorySelect).toNat off.toNat))

end Sys2Proof.Machine
end

