-- ==== Sys2Proof/Safety.lean ====
section
/-! DEFINITION. What statements about the machine are said in: the invariant of the state, the host's calls between slots,
the registers by name and the frame of an instruction, and the operand forms that several instructions share. -/

namespace Sys2Proof

/-! ## Register names (rule R10) -/

/-- Every register of the CPU; IX and IY by halves. -/
inductive Register where
  | a | f | b | c | d | e | h | l
  | a' | f' | b' | c' | d' | e' | h' | l'
  | ixh | ixl | iyh | iyl
  | sp | pc | i | r
  deriving DecidableEq, Repr

/-- The name of a register of code table R124. -/
def Reg8.name : Reg8 → Register
  | .b => .b | .c => .c | .d => .d | .e => .e | .h => .h | .l => .l | .a => .a

/-- The name of an index half (rule R25). -/
def Half.name (xy : XY) (h : Half) : Register :=
  match xy, h with
  | .ix, .high => .ixh | .ix, .low => .ixl | .iy, .high => .iyh | .iy, .low => .iyl

/-- The name of an operand of `LD p,p'` (rule R180). -/
def PReg.name (xy : XY) (p : PReg) : Register :=
  match p with
  | .b => .b | .c => .c | .d => .d | .e => .e | .xyh => Half.name xy .high | .xyl => Half.name xy .low | .a => .a

/-- The 16-bit registers and pairs that loads and arithmetic write. -/
inductive WordReg where
  | bc | de | hl | ix | iy | sp
  deriving DecidableEq, Repr

/-- The registers a pair is made of (rules R23, R25). -/
def WordReg.names : WordReg → List Register
  | .bc => [.b, .c] | .de => [.d, .e] | .hl => [.h, .l] | .ix => [.ixh, .ixl] | .iy => [.iyh, .iyl] | .sp => [.sp]

/-- The pair of a code of column dd / ss (rule R125). -/
def PairDD.name : PairDD → WordReg
  | .bc => .bc | .de => .de | .hl => .hl | .sp => .sp

/-- The index register of a prefix (rule R120). -/
def XY.name : XY → WordReg
  | .ix => .ix | .iy => .iy

/-- The pair of a code of columns pp and rr (rule R125). -/
def PairPP.name (xy : XY) : PairPP → WordReg
  | .bc => .bc | .de => .de | .xy => xy.name | .sp => .sp

/-- The two registers of a pair of `PUSH` and `POP` (rule R125, column qq). -/
def PairQQ.high : PairQQ → Register
  | .bc => .b | .de => .d | .hl => .h | .af => .a

def PairQQ.low : PairQQ → Register
  | .bc => .c | .de => .e | .hl => .l | .af => .f

/-- A condition of rule R32, on the bits of F (rule R22). -/
def Cond.Holds (f : Byte) : Cond → Prop
  | .nz => f.getLsbD 6 = false | .z => f.getLsbD 6 = true
  | .nc => f.getLsbD 0 = false | .c => f.getLsbD 0 = true
  | .po => f.getLsbD 2 = false | .pe => f.getLsbD 2 = true
  | .p => f.getLsbD 7 = false | .m => f.getLsbD 7 = true

/-- The instruction inside a chain of index prefixes that do not change it. -/
def Instr.core : Instr → Instr
  | .indexAgain _ i => i.core
  | .edAfterIndex _ i => i.core
  | .indexNoEffect _ i => i.core
  | i => i

end Sys2Proof

namespace Sys2Proof.Machine

/-! ## The invariant, and the host's calls -/

/-- No byte stands in a RAM page 48K mode does not have (rule R6). -/
def absentEmpty (ram : Memory) : Bool := ram.all fun c => !(absentPages.contains (c.1 / pageSize))

/-- The invariant: both memories in canonical form within the pages there are (rules R6, R48), and in 48K mode MemorySelect
at 0x30 (rules R45, R73) and nothing in the pages that mode does not have. -/
structure State.Inv (s : State) : Prop where
  ram_wf : s.ram.wf ramSize = true
  rom_wf : s.rom.wf romSize = true
  paging_48 : s.is128 = false → s.memorySelect = 0x30
  pages_48 : s.is128 = false → absentEmpty s.ram = true

/-- The host's calls that change the state (rule R560), with the draws they make. -/
inductive HostCall where
  | reset (g : ResetGPR)
  | raiseInt
  | clearInt
  | raiseNmi
  | romReload (slot : BitVec 1) (bytes : List Byte)
  | writePage (bank : Bits3) (bytes : List Byte)
  | load (bytes : List Byte) (fresh : Memory)
  | setT (n : Nat)
  | answerPort (v : Byte)
  | answerBus (v : Byte)
  deriving DecidableEq, Repr

/-- What a call does; a load that fails leaves the state (rule R506). -/
def HostCall.run : HostCall → State → State
  | .reset g, s => s.resetWith g
  | .raiseInt, s => s.raiseInt
  | .clearInt, s => s.clearInt
  | .raiseNmi, s => s.raiseNmi
  | .romReload slot bytes, s => s.romReload slot bytes
  | .writePage bank bytes, s => s.writePage bank bytes
  | .load bytes fresh, s => (s.load bytes fresh).getD s
  | .setT n, s => s.setT n
  | .answerPort v, s => s.answerPort v
  | .answerBus v, s => s.answerBus v

/-! ## Registers by name -/

/-- The value of a register. -/
def State.register (s : State) : Register → Nat
  | .a => s.main.a.toNat | .f => s.main.f.toNat | .b => s.main.b.toNat | .c => s.main.c.toNat
  | .d => s.main.d.toNat | .e => s.main.e.toNat | .h => s.main.h.toNat | .l => s.main.l.toNat
  | .a' => s.shadow.a.toNat | .f' => s.shadow.f.toNat | .b' => s.shadow.b.toNat | .c' => s.shadow.c.toNat
  | .d' => s.shadow.d.toNat | .e' => s.shadow.e.toNat | .h' => s.shadow.h.toNat | .l' => s.shadow.l.toNat
  | .ixh => (hi8 s.ix).toNat | .ixl => (lo8 s.ix).toNat | .iyh => (hi8 s.iy).toNat | .iyl => (lo8 s.iy).toNat
  | .sp => s.sp.toNat | .pc => s.pc.toNat | .i => s.i.toNat | .r => s.r.toNat

/-- The value of a pair (rules R9, R10). -/
def State.word (s : State) : WordReg → Word
  | .bc => joinBytes s.main.b s.main.c | .de => joinBytes s.main.d s.main.e | .hl => joinBytes s.main.h s.main.l
  | .ix => s.ix | .iy => s.iy | .sp => s.sp

/-! ## Frames -/

/-- The key of the RAM byte address `a` is routed to; `none` in a ROM page (rule R72). -/
def ramKey (ms : Byte) (a : Word) : Option Nat :=
  match route ms a with
  | .rom _ _ => none
  | .ram p o => some (pageKey p.toNat o.toNat)

/-- `t` is `s` but for the registers `regs` and the bytes stored at the addresses `stored`: no other register, no flag of an
unlisted F, no other byte of any RAM page, no ROM byte, no latch, no mode, no host-side field differs. -/
structure Frame (s t : State) (regs : List Register) (stored : List Word) : Prop where
  registers : ∀ q, q ∉ regs → t.register q = s.register q
  interrupts : t.iff1 = s.iff1 ∧ t.iff2 = s.iff2 ∧ t.im = s.im ∧ t.halt = s.halt ∧ t.eiDelay = s.eiDelay ∧
    t.intPending = s.intPending ∧ t.nmiPending = s.nmiPending
  machine : t.memorySelect = s.memorySelect ∧ t.is128 = s.is128 ∧ t.t = s.t ∧ t.border = s.border ∧ t.params = s.params
  host : t.portAnswers = s.portAnswers ∧ t.portReads = s.portReads ∧ t.busAnswers = s.busAnswers ∧
    t.busReads = s.busReads ∧ t.trace = s.trace
  rom : t.rom = s.rom
  ram : ∀ k, (∀ a ∈ stored, ramKey s.memorySelect a ≠ some k) → t.ram.read k = s.ram.read k
  reads : ∀ a, (∀ b ∈ stored, route s.memorySelect a ≠ route s.memorySelect b) → t.memRead a = s.memRead a

/-- The byte `v` was stored at address `a`: it is there if `a` is in a RAM page; a ROM page keeps its byte (rule R77). -/
def Stored (s t : State) (a : Word) (v : Byte) : Prop :=
  t.memRead a = if (ramKey s.memorySelect a).isSome then v else s.memRead a

/-- The eight flags of F, each as a condition (rule R22). -/
structure FlagsAre (f : Byte) (s z y h x pv n c : Prop) : Prop where
  s : flagS f = true ↔ s
  z : flagZ f = true ↔ z
  y : flagY f = true ↔ y
  h : flagH f = true ↔ h
  x : flagX f = true ↔ x
  pv : flagPV f = true ↔ pv
  n : flagN f = true ↔ n
  c : flagC f = true ↔ c

/-! ## Operand forms -/

/-- A byte operand that is only read: a register, `(HL)`, an immediate, `(XY+d)`, an index half (rule R266). -/
inductive Source where
  | reg (r : Reg8)
  | atHL
  | imm (n : Byte)
  | atXYd (xy : XY) (d : Byte)
  | half (xy : XY) (h : Half)
  deriving DecidableEq, Repr

/-- The byte a source gives (rules R124, R127, R266). -/
def Source.byte (s : State) : Source → Byte
  | .reg r => s.main.get r
  | .atHL => s.memRead (s.word .hl)
  | .imm n => n
  | .atXYd xy d => s.memRead (s.word xy.name + d.signExtend 16)
  | .half xy .high => hi8 (s.word xy.name)
  | .half xy .low => lo8 (s.word xy.name)

def addOf : Source → Instr
  | .reg r => .addR r | .atHL => .addHL | .imm n => .addN n | .atXYd xy d => .addXYd xy d
  | .half xy .high => .addXYH xy | .half xy .low => .addXYL xy

def adcOf : Source → Instr
  | .reg r => .adcR r | .atHL => .adcHL | .imm n => .adcN n | .atXYd xy d => .adcXYd xy d
  | .half xy .high => .adcXYH xy | .half xy .low => .adcXYL xy

def subOf : Source → Instr
  | .reg r => .subR r | .atHL => .subHL | .imm n => .subN n | .atXYd xy d => .subXYd xy d
  | .half xy .high => .subXYH xy | .half xy .low => .subXYL xy

def sbcOf : Source → Instr
  | .reg r => .sbcR r | .atHL => .sbcHL | .imm n => .sbcN n | .atXYd xy d => .sbcXYd xy d
  | .half xy .high => .sbcXYH xy | .half xy .low => .sbcXYL xy

def andOf : Source → Instr
  | .reg r => .andR r | .atHL => .andHL | .imm n => .andN n | .atXYd xy d => .andXYd xy d
  | .half xy .high => .andXYH xy | .half xy .low => .andXYL xy

def xorOf : Source → Instr
  | .reg r => .xorR r | .atHL => .xorHL | .imm n => .xorN n | .atXYd xy d => .xorXYd xy d
  | .half xy .high => .xorXYH xy | .half xy .low => .xorXYL xy

def orOf : Source → Instr
  | .reg r => .orR r | .atHL => .orHL | .imm n => .orN n | .atXYd xy d => .orXYd xy d
  | .half xy .high => .orXYH xy | .half xy .low => .orXYL xy

def cpOf : Source → Instr
  | .reg r => .cpR r | .atHL => .cpHL | .imm n => .cpN n | .atXYd xy d => .cpXYd xy d
  | .half xy .high => .cpXYH xy | .half xy .low => .cpXYL xy

/-- A byte operand that is read and written: a register, `(HL)`, `(XY+d)`, an index half. -/
inductive Target where
  | reg (r : Reg8)
  | atHL
  | atXYd (xy : XY) (d : Byte)
  | half (xy : XY) (h : Half)
  deriving DecidableEq, Repr

/-- A target as a source. -/
def Target.source : Target → Source
  | .reg r => .reg r | .atHL => .atHL | .atXYd xy d => .atXYd xy d | .half xy h => .half xy h

/-- The registers a write to a target changes. -/
def Target.regs : Target → List Register
  | .reg r => [r.name] | .half xy h => [h.name xy] | .atHL => [] | .atXYd _ _ => []

/-- The addresses a write to a target stores to. -/
def Target.stored (s : State) : Target → List Word
  | .reg _ => [] | .half _ _ => [] | .atHL => [s.word .hl] | .atXYd xy d => [s.word xy.name + d.signExtend 16]

/-- `v` was written to a target: the register holds it, or it was stored. -/
def Target.Wrote (s t : State) (x : Target) (v : Byte) : Prop :=
  (∀ q ∈ x.regs, t.register q = v.toNat) ∧ ∀ a ∈ x.stored s, Stored s t a v

def incOf : Target → Instr
  | .reg r => .incR r | .atHL => .incHL | .atXYd xy d => .incXYd xy d
  | .half xy .high => .incXYH xy | .half xy .low => .incXYL xy

def decOf : Target → Instr
  | .reg r => .decR r | .atHL => .decHL | .atXYd xy d => .decXYd xy d
  | .half xy .high => .decXYH xy | .half xy .low => .decXYL xy

/-- The operand of a rotate, shift, `RES` or `SET`: a register, `(HL)`, `(XY+d)`, or `(XY+d)` with a copy of the result to a
register (rules R137, R344, R352). -/
inductive BitTarget where
  | reg (r : Reg8)
  | atHL
  | atXYd (xy : XY) (d : Byte)
  | atXYdCopy (xy : XY) (d : Byte) (r : Reg8)
  deriving DecidableEq, Repr

/-- The byte operated on. -/
def BitTarget.byte (s : State) : BitTarget → Byte
  | .reg r => s.main.get r
  | .atHL => s.memRead (s.word .hl)
  | .atXYd xy d => s.memRead (s.word xy.name + d.signExtend 16)
  | .atXYdCopy xy d _ => s.memRead (s.word xy.name + d.signExtend 16)

/-- The registers that receive the result. -/
def BitTarget.regs : BitTarget → List Register
  | .reg r => [r.name] | .atHL => [] | .atXYd _ _ => [] | .atXYdCopy _ _ r => [r.name]

/-- The addresses the result is stored to. -/
def BitTarget.stored (s : State) : BitTarget → List Word
  | .reg _ => []
  | .atHL => [s.word .hl]
  | .atXYd xy d => [s.word xy.name + d.signExtend 16]
  | .atXYdCopy xy d _ => [s.word xy.name + d.signExtend 16]

/-- `v` was written to the operand and to its copy. -/
def BitTarget.Wrote (s t : State) (x : BitTarget) (v : Byte) : Prop :=
  (∀ q ∈ x.regs, t.register q = v.toNat) ∧ ∀ a ∈ x.stored s, Stored s t a v

/-- The rotate or shift instruction (rules R345 to R353). -/
def shiftOf : ShiftOp → BitTarget → Instr
  | .rlc, .reg r => .rlcR r | .rlc, .atHL => .rlcHL | .rlc, .atXYd xy d => .rlcXYd xy d
  | .rlc, .atXYdCopy xy d r => .rlcXYdR xy d r
  | .rrc, .reg r => .rrcR r | .rrc, .atHL => .rrcHL | .rrc, .atXYd xy d => .rrcXYd xy d
  | .rrc, .atXYdCopy xy d r => .rrcXYdR xy d r
  | .rl, .reg r => .rlR r | .rl, .atHL => .rlHL | .rl, .atXYd xy d => .rlXYd xy d
  | .rl, .atXYdCopy xy d r => .rlXYdR xy d r
  | .rr, .reg r => .rrR r | .rr, .atHL => .rrHL | .rr, .atXYd xy d => .rrXYd xy d
  | .rr, .atXYdCopy xy d r => .rrXYdR xy d r
  | .sla, .reg r => .slaR r | .sla, .atHL => .slaHL | .sla, .atXYd xy d => .slaXYd xy d
  | .sla, .atXYdCopy xy d r => .slaXYdR xy d r
  | .sra, .reg r => .sraR r | .sra, .atHL => .sraHL | .sra, .atXYd xy d => .sraXYd xy d
  | .sra, .atXYdCopy xy d r => .sraXYdR xy d r
  | .sll, .reg r => .sllR r | .sll, .atHL => .sllHL | .sll, .atXYd xy d => .sllXYd xy d
  | .sll, .atXYdCopy xy d r => .sllXYdR xy d r
  | .srl, .reg r => .srlR r | .srl, .atHL => .srlHL | .srl, .atXYd xy d => .srlXYd xy d
  | .srl, .atXYdCopy xy d r => .srlXYdR xy d r

/-- `RES b` (rules R352, R376). -/
def resOf (b : Bits3) : BitTarget → Instr
  | .reg r => .resBR b r | .atHL => .resBHL b | .atXYd xy d => .resBXYd xy d b | .atXYdCopy xy d r => .resBXYdR xy d b r

/-- `SET b` (rules R352, R379). -/
def setOf (b : Bits3) : BitTarget → Instr
  | .reg r => .setBR b r | .atHL => .setBHL b | .atXYd xy d => .setBXYd xy d b | .atXYdCopy xy d r => .setBXYdR xy d b r

/-- The 8-bit loads into a register: the instruction, its destination and the byte it loads (40_load8.md). -/
inductive LoadsByte (s : State) : Instr → Register → Byte → Prop where
  | reg (r r' : Reg8) : LoadsByte s (.ldRR r r') r.name (s.main.get r')
  | imm (r : Reg8) (n : Byte) : LoadsByte s (.ldRN r n) r.name n
  | atHL (r : Reg8) : LoadsByte s (.ldRHL r) r.name (s.memRead (s.word .hl))
  | atXYd (xy : XY) (r : Reg8) (d : Byte) :
    LoadsByte s (.ldRXYd xy r d) r.name (s.memRead (s.word xy.name + d.signExtend 16))
  | atBC : LoadsByte s .ldABC .a (s.memRead (s.word .bc))
  | atDE : LoadsByte s .ldADE .a (s.memRead (s.word .de))
  | direct (nn : Word) : LoadsByte s (.ldANN nn) .a (s.memRead nn)
  | halves (xy : XY) (p p' : PReg) (v : Byte) (hv : v.toNat = s.register (p'.name xy)) :
    LoadsByte s (.ldPP xy p p') (p.name xy) v
  | high (xy : XY) (n : Byte) : LoadsByte s (.ldXYHN xy n) (Half.name xy .high) n
  | low (xy : XY) (n : Byte) : LoadsByte s (.ldXYLN xy n) (Half.name xy .low) n

/-- The 8-bit loads into memory: the instruction, the address and the byte it stores. -/
inductive StoresByte (s : State) : Instr → Word → Byte → Prop where
  | atHL (r : Reg8) : StoresByte s (.ldHLR r) (s.word .hl) (s.main.get r)
  | immHL (n : Byte) : StoresByte s (.ldHLN n) (s.word .hl) n
  | atXYd (xy : XY) (r : Reg8) (d : Byte) :
    StoresByte s (.ldXYdR xy r d) (s.word xy.name + d.signExtend 16) (s.main.get r)
  | immXYd (xy : XY) (d n : Byte) : StoresByte s (.ldXYdN xy d n) (s.word xy.name + d.signExtend 16) n
  | atBC : StoresByte s .ldBCA (s.word .bc) s.main.a
  | atDE : StoresByte s .ldDEA (s.word .de) s.main.a
  | direct (nn : Word) : StoresByte s (.ldNNA nn) nn s.main.a

/-- The 16-bit loads into a register: the instruction, its destination and the word it loads (41_load16_stack.md). -/
inductive LoadsWord (s : State) : Instr → WordReg → Word → Prop where
  | imm (dd : PairDD) (nn : Word) : LoadsWord s (.ldDDNN dd nn) dd.name nn
  | immXY (xy : XY) (nn : Word) : LoadsWord s (.ldXYNN xy nn) xy.name nn
  | hl (nn : Word) : LoadsWord s (.ldHLNN nn) .hl (joinBytes (s.memRead (nn + 1)) (s.memRead nn))
  | direct (dd : PairDD) (nn : Word) : LoadsWord s (.ldDDMem dd nn) dd.name (joinBytes (s.memRead (nn + 1)) (s.memRead nn))
  | directXY (xy : XY) (nn : Word) :
    LoadsWord s (.ldXYMem xy nn) xy.name (joinBytes (s.memRead (nn + 1)) (s.memRead nn))
  | spHL : LoadsWord s .ldSPHL .sp (s.word .hl)
  | spXY (xy : XY) : LoadsWord s (.ldSPXY xy) .sp (s.word xy.name)

/-- The 16-bit loads into memory: the instruction, the address and the word it stores there, low byte first. -/
inductive StoresWord (s : State) : Instr → Word → Word → Prop where
  | hl (nn : Word) : StoresWord s (.ldNNHL nn) nn (s.word .hl)
  | pair (nn : Word) (dd : PairDD) : StoresWord s (.ldNNDD nn dd) nn (s.word dd.name)
  | index (xy : XY) (nn : Word) : StoresWord s (.ldNNXY xy nn) nn (s.word xy.name)

/-- `IN`: the instruction, and the low and high bytes of the port it reads (48_io.md). -/
inductive ReadsPort (s : State) : Instr → (lo hi : Byte) → Prop where
  | inA (n : Byte) : ReadsPort s (.inAN n) n s.main.a
  | inR (r : Reg8) : ReadsPort s (.inRC r) s.main.c s.main.b
  | inF : ReadsPort s .inFC s.main.c s.main.b

/-- `OUT`: the instruction, the low and high bytes of the port, and the byte it writes. -/
inductive WritesPort (s : State) : Instr → (lo hi v : Byte) → Prop where
  | outA (n : Byte) : WritesPort s (.outNA n) n s.main.a s.main.a
  | outR (r : Reg8) : WritesPort s (.outCR r) s.main.c s.main.b (s.main.get r)
  | out0 : WritesPort s .outC0 s.main.c s.main.b 0

/-- `PUSH`: the instruction and the two registers it pushes (rules R210, R211). -/
inductive Pushes : Instr → (hi lo : Register) → Prop where
  | pair (qq : PairQQ) : Pushes (.pushQQ qq) qq.high qq.low
  | index (xy : XY) : Pushes (.pushXY xy) (Half.name xy .high) (Half.name xy .low)

/-- `POP`: the instruction and the two registers it pops into (rules R212, R213). -/
inductive Pops : Instr → (hi lo : Register) → Prop where
  | pair (qq : PairQQ) : Pops (.popQQ qq) qq.high qq.low
  | index (xy : XY) : Pops (.popXY xy) (Half.name xy .high) (Half.name xy .low)

/-- `EX (SP),HL` and `EX (SP),XY`: the instruction and the two registers it exchanges (rules R233, R234). -/
inductive ExchangesTop : Instr → (hi lo : Register) → Prop where
  | hl : ExchangesTop .exSPHL .h .l
  | index (xy : XY) : ExchangesTop (.exSPXY xy) (Half.name xy .high) (Half.name xy .low)

/-- The jumps that change nothing but PC: the instruction and its target (47_control_transfer.md). -/
inductive Jumps (s : State) : Instr → Word → Prop where
  | absolute (nn : Word) : Jumps s (.jpNN nn) nn
  | taken (cc : Cond) (nn : Word) (h : cc.Holds s.main.f) : Jumps s (.jpCcNN cc nn) nn
  | notTaken (cc : Cond) (nn : Word) (h : ¬cc.Holds s.main.f) : Jumps s (.jpCcNN cc nn) s.pc
  | relative (e : Byte) : Jumps s (.jrE e) (BitVec.ofInt 16 (s.pc.toNat + e.toInt))
  | relativeTaken (cc : Cond) (e : Byte) (h : cc.Holds s.main.f) :
    Jumps s (.jrCcE cc e) (BitVec.ofInt 16 (s.pc.toNat + e.toInt))
  | relativeNotTaken (cc : Cond) (e : Byte) (h : ¬cc.Holds s.main.f) : Jumps s (.jrCcE cc e) s.pc
  | toHL : Jumps s .jpHL (s.word .hl)
  | toXY (xy : XY) : Jumps s (.jpXY xy) (s.word xy.name)

/-- The calls that are taken: the instruction and its target. -/
inductive Calls (s : State) : Instr → Word → Prop where
  | always (nn : Word) : Calls s (.callNN nn) nn
  | taken (cc : Cond) (nn : Word) (h : cc.Holds s.main.f) : Calls s (.callCcNN cc nn) nn
  | restart (t : Bits3) : Calls s (.rstP t) (BitVec.ofNat 16 (8 * t.toNat))

/-- The returns that are taken: the instruction, and what IFF1 is after it (rules R402, R403, R408, R409). -/
inductive Returns (s : State) : Instr → Bool → Prop where
  | always : Returns s .ret s.iff1
  | taken (cc : Cond) (h : cc.Holds s.main.f) : Returns s (.retCc cc) s.iff1
  | fromInt : Returns s .reti s.iff2
  | fromNmi : Returns s .retn s.iff2
  | fromNmiCopy (y : Bits3) : Returns s (.retnCopies y) s.iff2

/-- An even number of 1 bits (rule R17). -/
def EvenOnes (v : Byte) : Prop := ((List.range 8).countP fun k => v.getLsbD k) % 2 = 0

/-- The result of a rotate or shift of the byte `v`, `c` the carry flag, as a number (rules R345 to R351, R353). -/
def shiftNat (v c : Nat) : ShiftOp → Nat
  | .rlc => 2 * v + v / 128
  | .rrc => v / 2 + 128 * (v % 2)
  | .rl => 2 * v + c
  | .rr => v / 2 + 128 * c
  | .sla => 2 * v
  | .sra => v / 2 + 128 * (v / 128)
  | .sll => 2 * v + 1
  | .srl => v / 2

/-- The bit that a rotate or shift of `v` puts in the carry flag, as a number. -/
def shiftOut (v : Nat) : ShiftOp → Nat
  | .rlc | .rl | .sla | .sll => v / 128
  | .rrc | .rr | .sra | .srl => v % 2

/-- `n` R increments: bits 6:0 count, bit 7 stays (rule R36). -/
def countR (r : Byte) (n : Nat) : Byte := (r &&& 0x80) ||| (BitVec.ofNat 8 (r.toNat + n) &&& 0x7F)

/-- PC, R and EiDelay as the fetch of `i`, `bytes` bytes from memory and `count` R increments, leaves them
(rules R28, R130). -/
def State.fetchedBy (s : State) (bytes count : Nat) : State :=
  { s with pc := BitVec.ofNat 16 (s.pc.toNat + bytes), r := countR s.r count }

/-! ## Costs and R increments, form by form -/

/-- R increments by the bytes of an instruction, `ddcb` for an index prefix and `CB` (the table of rule R130). -/
def fetchIncrements (ddcb : Nat) : List Byte → Nat
  | [] => 0
  | b :: rest =>
    if b = 0xCB ∨ b = 0xED then 2
    else if b = 0xDD ∨ b = 0xFD then
      if rest.head? = some 0xCB then ddcb else 1 + fetchIncrements ddcb rest
    else 1

/-- `R_INC_DDCB` as a number (rule R130). -/
def rIncDdcbCount (p : Config.Params) : Nat :=
  match p.rIncDdcb with
  | .two => 2
  | .three => 3

/-- T-states of an instruction that reads this operand (rule R593). -/
def Source.cost : Source → Nat
  | .reg _ => 4 | .atHL => 7 | .imm _ => 7 | .atXYd _ _ => 19 | .half _ _ => 8

/-- T-states of `INC` and `DEC` of this operand (rule R593). -/
def Target.cost : Target → Nat
  | .reg _ => 4 | .atHL => 11 | .atXYd _ _ => 23 | .half _ _ => 8

/-- T-states of a rotate, shift, `RES` or `SET` of this operand (rule R593). -/
def BitTarget.cost : BitTarget → Nat
  | .reg _ => 8 | .atHL => 15 | .atXYd _ _ => 23 | .atXYdCopy _ _ _ => 23

/-- The T-states of an instruction in the state before it (rule R593 and the `Timing:` lines): by operand form, by the rows of
the table of rule R593, by condition, and with an index prefix that has no effect. -/
inductive Timed (s : State) : Instr → Nat → Prop where
  | arithmetic (op : Source → Instr) (x : Source)
    (h : op ∈ [addOf, adcOf, subOf, sbcOf, andOf, xorOf, orOf, cpOf]) : Timed s (op x) x.cost
  | counting (op : Target → Instr) (x : Target) (h : op ∈ [incOf, decOf]) : Timed s (op x) x.cost
  | shifting (o : ShiftOp) (x : BitTarget) : Timed s (shiftOf o x) x.cost
  | setting (op : BitTarget → Instr) (b : Bits3) (x : BitTarget) (h : op ∈ [resOf b, setOf b]) : Timed s (op x) x.cost
  | four (r r' : Reg8) (i : Instr)
    (h : i ∈ [.ldRR r r', .nop, .halt, .di, .ei, .exAFAF, .exx, .exDEHL, .rlca, .rla, .rrca, .rra, .daa, .cpl, .scf, .ccf,
      .jpHL]) : Timed s i 4
  | six (ss : PairDD) (i : Instr) (h : i ∈ [.incSS ss, .decSS ss, .ldSPHL]) : Timed s i 6
  | seven (r : Reg8) (n : Byte) (i : Instr)
    (h : i ∈ [.ldRN r n, .ldRHL r, .ldHLR r, .ldABC, .ldADE, .ldBCA, .ldDEA]) : Timed s i 7
  | eight (b y : Bits3) (r : Reg8) (op : Byte) (xy : XY) (p p' : PReg) (i : Instr)
    (h : i ∈ [.bitBR b r, .neg, .negCopies y, .im0, .im1, .im2, .im0Copies y, .im1Copy, .im2Copy, .edNop op, .jpXY xy,
      .ldPP xy p p']) : Timed s i 8
  | nine (i : Instr) (h : i ∈ [.ldAI, .ldAR, .ldIA, .ldRA]) : Timed s i 9
  | ten (dd : PairDD) (nn : Word) (n : Byte) (cc : Cond) (qq : PairQQ) (xy : XY) (i : Instr)
    (h : i ∈ [.ldDDNN dd nn, .ldHLN n, .jpNN nn, .jpCcNN cc nn, .popQQ qq, .ret, .incXY xy, .decXY xy, .ldSPXY xy]) :
    Timed s i 10
  | eleven (ss : PairDD) (qq : PairQQ) (p : Bits3) (n : Byte) (xy : XY) (i : Instr)
    (h : i ∈ [.addHLSS ss, .pushQQ qq, .rstP p, .inAN n, .outNA n, .ldXYHN xy n, .ldXYLN xy n]) : Timed s i 11
  | twelve (e : Byte) (b : Bits3) (r : Reg8) (i : Instr)
    (h : i ∈ [.jrE e, .bitBHL b, .inRC r, .inFC, .outCR r, .outC0]) : Timed s i 12
  | thirteen (nn : Word) (i : Instr) (h : i ∈ [.ldANN nn, .ldNNA nn]) : Timed s i 13
  | fourteen (xy : XY) (nn : Word) (y : Bits3) (i : Instr)
    (h : i ∈ [.ldXYNN xy nn, .popXY xy, .reti, .retn, .retnCopies y]) : Timed s i 14
  | fifteen (ss : PairDD) (xy : XY) (pp : PairPP) (i : Instr)
    (h : i ∈ [.adcHLSS ss, .sbcHLSS ss, .addXYPP xy pp, .pushXY xy]) : Timed s i 15
  | sixteen (nn : Word) (i : Instr)
    (h : i ∈ [.ldHLNN nn, .ldNNHL nn, .ldi, .ldd, .cpi, .cpd, .ini, .ind, .outi, .outd]) : Timed s i 16
  | seventeen (nn : Word) : Timed s (.callNN nn) 17
  | eighteen (i : Instr) (h : i ∈ [.rld, .rrd]) : Timed s i 18
  | nineteen (xy : XY) (r : Reg8) (d n : Byte) (i : Instr)
    (h : i ∈ [.ldRXYd xy r d, .ldXYdR xy r d, .ldXYdN xy d n, .exSPHL]) : Timed s i 19
  | twenty (dd : PairDD) (nn : Word) (xy : XY) (d : Byte) (b z : Bits3) (i : Instr)
    (h : i ∈ [.ldDDMem dd nn, .ldNNDD nn dd, .ldXYMem xy nn, .ldNNXY xy nn, .bitBXYd xy d b, .bitBXYdCopies xy d b z]) :
    Timed s i 20
  | twentyThree (xy : XY) : Timed s (.exSPXY xy) 23
  | taken (cc : Cond) (e : Byte) (nn : Word) (p : Instr × Nat) (hc : cc.Holds s.main.f)
    (h : p ∈ [(Instr.retCc cc, 11), (.jrCcE cc e, 12), (.callCcNN cc nn, 17)]) : Timed s p.1 p.2
  | notTaken (cc : Cond) (e : Byte) (nn : Word) (p : Instr × Nat) (hc : ¬cc.Holds s.main.f)
    (h : p ∈ [(Instr.retCc cc, 5), (.jrCcE cc e, 7), (.callCcNN cc nn, 10)]) : Timed s p.1 p.2
  | loops (e : Byte) (hb : s.main.b ≠ 1) : Timed s (.djnzE e) 13
  | ends (e : Byte) (hb : s.main.b = 1) : Timed s (.djnzE e) 8
  | copyAgain (i : Instr) (hb : s.word .bc ≠ 1) (h : i ∈ [.ldir, .lddr]) : Timed s i 21
  | copyLast (i : Instr) (hb : s.word .bc = 1) (h : i ∈ [.ldir, .lddr]) : Timed s i 16
  | searchAgain (i : Instr) (hb : s.word .bc ≠ 1 ∧ s.main.a ≠ s.memRead (s.word .hl)) (h : i ∈ [.cpir, .cpdr]) :
    Timed s i 21
  | searchLast (i : Instr) (hb : s.word .bc = 1 ∨ s.main.a = s.memRead (s.word .hl)) (h : i ∈ [.cpir, .cpdr]) :
    Timed s i 16
  | portAgain (i : Instr) (hb : s.main.b ≠ 1) (h : i ∈ [.inir, .indr, .otir, .otdr]) : Timed s i 21
  | portLast (i : Instr) (hb : s.main.b = 1) (h : i ∈ [.inir, .indr, .otir, .otdr]) : Timed s i 16
  | prefixed (xy : XY) (i p : Instr) (n : Nat) (hi : Timed s i n)
    (h : p ∈ [.indexAgain xy i, .edAfterIndex xy i, .indexNoEffect xy i]) : Timed s p (n + 4)

/-! ## Writes to RAM -/

/-- `t` is `s` with the byte `v` at one key of RAM. -/
def OnlyByteWritten (s t : State) (key : Nat) (v : Byte) : Prop :=
  t = { s with ram := t.ram } ∧ ∀ k, t.ram.read k = if k = key then v else s.ram.read k

/-! ## Snapshot files, as 49_snapshot_codec.md lays them out -/

/-- `f1` of a header (rule R462). -/
def fileFlags1 (file : List Byte) : Byte := if file.getD 12 0 = 0xFF then 1 else file.getD 12 0

/-- A memory block of a version 2 or 3 file: its page id, whether its length field is 0xFFFF, its data (rule R467). -/
structure FileBlock where
  id : Byte
  raw : Bool
  data : List Byte
  deriving DecidableEq, Repr

/-- The bytes of a block (rule R467). -/
def FileBlock.bytes (b : FileBlock) : List Byte :=
  let len : Word := if b.raw then 0xFFFF else BitVec.ofNat 16 b.data.length
  lo8 len :: hi8 len :: b.id :: b.data

/-- The length field of a block announces its data (rule R467). -/
def FileBlock.Sized (b : FileBlock) : Prop :=
  if b.raw = true then b.data.length = 16384 else 0 < b.data.length ∧ b.data.length < 0xFFFF

/-- The first `size` bytes of the page of a block (rules R467, R515). -/
def FileBlock.page (b : FileBlock) (size : Nat) : List Byte := if b.raw then b.data.take size else decompress b.data size

/-- A block is for a RAM page (the table of rule R469). -/
def FileBlock.isFor (is128 : Bool) (bank : Nat) (b : FileBlock) : Bool :=
  if is128 then b.id.toNat == bank + 3 else [(4, 2), (5, 0), (8, 5)].contains (b.id.toNat, bank)

/-- A block that loads: a known page is whole (rules R467, R501). -/
def FileBlock.Loads (is128 : Bool) (b : FileBlock) : Prop :=
  b.Sized ∧ ∀ bank ∈ ramPages is128, b.isFor is128 bank = true → (b.page 16384).length = 16384

/-- A version 2 or 3 file up to the end of some of its blocks (rules R461, R465). -/
structure ExtendedFile where
  header : List Byte
  addlen : Byte
  ext : List Byte
  blocks : List FileBlock
  deriving DecidableEq, Repr

def ExtendedFile.bytes (f : ExtendedFile) : List Byte :=
  f.header ++ [f.addlen, 0] ++ f.ext ++ f.blocks.flatMap FileBlock.bytes

/-- The mode of a file (rule R466). -/
def ExtendedFile.is128 (f : ExtendedFile) : Bool :=
  decide ((if f.addlen = 23 then 3 else 4) ≤ (f.ext.getD 2 0).toNat)

/-- The headers are those of a version 2 or 3 file (rules R463, R465). -/
structure ExtendedFile.WellHeaded (f : ExtendedFile) : Prop where
  header : f.header.length = 30
  noPC : f.header.getD 6 0 = 0 ∧ f.header.getD 7 0 = 0
  mode : (f.header.getD 29 0).toNat % 4 ≠ 3
  addlen : f.addlen = 23 ∨ f.addlen = 54 ∨ f.addlen = 55
  ext : f.ext.length = f.addlen.toNat

/-- What may follow the blocks of a file: nothing, or a terminator and any bytes (rule R467). -/
inductive FileEnd : List Byte → Prop where
  | eof : FileEnd []
  | terminator (id : Byte) (rest : List Byte) : FileEnd (0 :: 0 :: id :: rest)

/-- A block cut off by the end of the file, in its header or in its data (rule R501 (d), (e)). -/
inductive CutOff : List Byte → Prop where
  | one (l : Byte) : CutOff [l]
  | two (l h : Byte) : CutOff [l, h]
  | data (l h id : Byte) (data : List Byte) (h0 : l ≠ 0 ∨ h ≠ 0)
    (hd : data.length < if l = 0xFF ∧ h = 0xFF then 16384 else h.toNat * 256 + l.toNat) : CutOff (l :: h :: id :: data)

/-- A header that gives no file (rule R501 (a), (b), (c)). -/
inductive BadHeader (file : List Byte) : Prop where
  | short (h : file.length < 30)
  | mode (h : (file.getD 29 0).toNat % 4 = 3)
  | noLength (h0 : file.getD 6 0 = 0 ∧ file.getD 7 0 = 0) (h : file.length < 32)
  | addlen (h0 : file.getD 6 0 = 0 ∧ file.getD 7 0 = 0)
    (h : (file.getD 31 0).toNat * 256 + (file.getD 30 0).toNat ∉ [23, 54, 55])
  | extShort (h0 : file.getD 6 0 = 0 ∧ file.getD 7 0 = 0)
    (h : file.length < 32 + ((file.getD 31 0).toNat * 256 + (file.getD 30 0).toNat))

/-- The 30 bytes of a version 1 header (rules R461, R463, R465). -/
structure Version1Header (header : List Byte) : Prop where
  size : header.length = 30
  pc : header.getD 6 0 ≠ 0 ∨ header.getD 7 0 ≠ 0
  mode : (header.getD 29 0).toNat % 4 ≠ 3

/-- The first `size` bytes of a version 1 body (rules R468, R515). -/
def bodyOf (p : Config.Params) (header body : List Byte) (size : Nat) : List Byte :=
  if fileFlags1 header &&& p.v1CompressedMask = 0 then body.take size else decompress body size

/-- The registers that a byte of the header holds, and its offset (rule R461). -/
def headerBytes : List (Register × Nat) :=
  [(.a, 0), (.f, 1), (.c, 2), (.b, 3), (.l, 4), (.h, 5), (.i, 10), (.e, 13), (.d, 14), (.c', 15), (.b', 16), (.e', 17),
    (.d', 18), (.l', 19), (.h', 20), (.a', 21), (.f', 22), (.iyl, 23), (.iyh, 24), (.ixl, 25), (.ixh, 26)]

/-- `t` is `s` after a load whose fixed header is that of `file`: every register, R and Border from `f1`, the flip-flops, IM, the
latches clear, T, ROM and all the host supplies kept (rules R462 to R464, R502, R504). -/
structure HeaderLoaded (file : List Byte) (s t : State) : Prop where
  registers : ∀ p ∈ headerBytes, t.register p.1 = (file.getD p.2 0).toNat
  sp : t.sp = joinBytes (file.getD 9 0) (file.getD 8 0)
  r : t.r.toNat = (file.getD 11 0).toNat % 128 + 128 * ((fileFlags1 file).toNat % 2)
  border : t.border.toNat = (fileFlags1 file).toNat / 2 % 8
  iff1 : t.iff1 = true ↔ file.getD 27 0 ≠ 0
  iff2 : t.iff2 = true ↔ file.getD 28 0 ≠ 0
  im : t.im.code.toNat = (file.getD 29 0).toNat % 4
  latches : t.halt = false ∧ t.eiDelay = false ∧ t.intPending = false ∧ t.nmiPending = false
  kept : t.t = s.t ∧ t.rom = s.rom ∧ t.params = s.params ∧ t.trace = s.trace ∧ t.portAnswers = s.portAnswers ∧
    t.portReads = s.portReads ∧ t.busAnswers = s.busAnswers ∧ t.busReads = s.busReads

/-- What a RAM page holds before the blocks of a file are put in: its content, or the draw if the machine loaded into has no such
page (rules R503, R504; log entry 12). -/
def pageBefore (s : State) (fresh : Memory) (bank : Bits3) : List Byte :=
  if bank.toNat ∈ ramPages s.is128 then s.readPage bank else fresh.page bank.toNat

end Sys2Proof.Machine
end

