-- ==== Sys2Proof/Certificates/Slice0/Obligations.lean ====
section
/-! DEFINITION. The statements for the provers. -/

open Sys2Proof Sys2Proof.Machine

/-! ## Encoding, and the step -/

/-- Every operand bit of every well-formed instruction survives encoding and decoding; an instruction whose lookup is finished
leaves the bytes after it. -/
def Obligations.DecodeOfEncodeIsTheInstruction : Prop :=
  ∀ i : Instr, i.wf = true →
    decode i.encode = .ok (i, []) ∧ (i.complete = true → ∀ rest, decode (i.encode ++ rest) = .ok (i, rest))

/-- Every byte string the decoder reads has one meaning: the instruction is well formed and its encoding is the bytes read. -/
def Obligations.EncodeOfDecodeIsTheBytes : Prop :=
  ∀ (bytes : List Byte) (i : Instr) (rest : List Byte), decode bytes = .ok (i, rest) →
    i.wf = true ∧ i.encode ++ rest = bytes

/-- No opcode is invalid (rule R122): any run of index prefixes, any byte after it and any three more decode to a finished
instruction. -/
def Obligations.NoByteSequenceIsInvalid : Prop :=
  ∀ (pre : List Byte) (op : Byte) (rest : List Byte), (∀ b ∈ pre, b = 0xDD ∨ b = 0xFD) → op ≠ 0xDD → op ≠ 0xFD →
    3 ≤ rest.length → ∃ i tail, decode (pre ++ op :: rest) = .ok (i, tail) ∧ i.complete = true

/-- One word of every family, written out from the encoding its rule gives. -/
def Obligations.WordsOfTheSpecDecode : Prop :=
  decode [0b01111000] = .ok (.ldRR .a .b, []) ∧
  decode [0b00110110, 0x5A] = .ok (.ldHLN 0x5A, []) ∧
  decode [0b11101101, 0b01001011, 0x34, 0x12] = .ok (.ldDDMem .bc 0x1234, []) ∧
  decode [0b11011001] = .ok (.exx, []) ∧
  decode [0b11101101, 0b10110000] = .ok (.ldir, []) ∧
  decode [0b10011110] = .ok (.sbcHL, []) ∧
  decode [0b11111101, 0b10110100] = .ok (.orXYH .iy, []) ∧
  decode [0b11101101, 0b01011110] = .ok (.im2, []) ∧
  decode [0b11011101, 0b00101001] = .ok (.addXYPP .ix .xy, []) ∧
  decode [0b11001011, 0b00110111] = .ok (.sllR .a, []) ∧
  decode [0b11111101, 0b11001011, 0xFF, 0b11000111] = .ok (.setBXYdR .iy 0xFF 0 .a, []) ∧
  decode [0b00110000, 0x05] = .ok (.jrCcE .nc 0x05, []) ∧
  decode [0b11101101, 0b01110000] = .ok (.inFC, []) ∧
  decode [0b11011101, 0b11111101, 0b00100001, 0x34, 0x12] = .ok (.indexAgain .ix (.ldXYNN .iy 0x1234), [])

/-- When the bytes at PC decode to a finished instruction `i` and the slot is an instruction slot, the step is `exec i` in the
state after the fetch: PC past the instruction, R counted, EiDelay cleared, and the cost of the slot added to T (rules R121,
R551). -/
def Obligations.StepRunsTheDecodedInstruction : Prop :=
  ∀ (s : State) (n : Nat) (i : Instr) (rest : List Byte), s.nextSlot = .instruction → n ≤ lookupWindow →
    decode (s.bytesFrom n s.pc) = .ok (i, rest) → i.complete = true →
    let s1 := { s with eiDelay := false }.fetchedBy i.encode.length (rIncrements s.params i)
    ∃ t, exec i s1 = .next t ∧
      step s = .next { t with
        t := t.t + costWith s (baseCost i s) i.encode (addrsFrom i.encode.length s.pc ++ dataAddrs i s) }

/-- A row of the opcode table at which the lookup continues executes the instruction that its bytes and the bytes at PC make
(rules R121, R136, R137): this is where such a row completes. That a prefix byte alone is an instruction of the syntax is
the model's choice (log entry 8). -/
def Obligations.PrefixBytesContinueTheLookup : Prop :=
  ∀ (s : State) (p : Instr) (n : Nat) (i : Instr) (rest : List Byte), p.complete = false → n ≤ lookupWindow →
    decode (p.encode ++ s.bytesFrom n s.pc) = .ok (i, rest) → i.complete = true →
    ∃ t, exec p s = .next t ∧
      exec i (s.fetchedBy (i.encode.length - p.encode.length) (rIncrements s.params i - rIncrements s.params p)) = .next t

/-- A run of index prefixes that fills memory has no step (rule R139); the fault is the model's choice (log entry 11). -/
def Obligations.EndlessPrefixRunHasNoStep : Prop :=
  ∀ s : State, (∀ a, s.memRead a = 0xDD ∨ s.memRead a = 0xFD) →
    exec .prefixDD s = .fault .unboundedPrefixRun ∧ exec .prefixFD s = .fault .unboundedPrefixRun ∧
    (s.nextSlot = .instruction → step s = .fault .unboundedPrefixRun)

/-- Every instruction whose lookup is finished completes, in every state, with every operand (rule R520: no instruction
raises an exception). -/
def Obligations.EveryFinishedInstructionCompletes : Prop :=
  ∀ (i : Instr) (s : State), i.complete = true → ∃ t, exec i s = .next t

/-- An index prefix in front of an instruction it does not change: the instruction completes with the effect it has alone, 4
T-states and one R increment more (rules R130, R135, R136, R312). -/
def Obligations.IndexPrefixWithoutEffect : Prop :=
  ∀ (xy : XY) (i : Instr) (s : State), i.complete = true →
    ∀ p ∈ [Instr.indexAgain xy i, .edAfterIndex xy i, .indexNoEffect xy i],
      (∃ t, exec p s = .next t ∧ exec i s = .next t) ∧ baseCost p s = baseCost i s + 4 ∧
      rIncrements s.params p = rIncrements s.params i + 1

/-! ## The whole machine -/

/-- The reset state meets the invariant; a 48K machine with blank memory is the model's choice (log entries 1 and 2). -/
def Obligations.ResetMeetsTheInvariant : Prop := State.reset.Inv

/-- Every slot keeps the invariant. -/
def Obligations.EveryStepKeepsTheInvariant : Prop :=
  ∀ s t : State, s.Inv → step s = .next t → t.Inv

/-- Every call of the host keeps the invariant, snapshot loads included, and machine-init with canonical pages gives it. -/
def Obligations.EveryHostCallKeepsTheInvariant : Prop :=
  (∀ (c : HostCall) (s : State), s.Inv → (c.run s).Inv) ∧
  ∀ (params : Config.Params) (is128 : Bool) (rom ram : Memory) (border : BitVec 3) (g : ResetGPR),
    rom.wf romSize = true → ram.wf ramSize = true → (State.machineInit params is128 rom ram border g).Inv

/-- No slot changes a ROM byte (rule R75), the machine's mode (rule R45) or its parameters, which are the model's own field (log
entry 5); with PagingLock set no slot changes MemorySelect (rules R80, R81). -/
def Obligations.StepKeepsRomModeAndLockedPaging : Prop :=
  ∀ s t : State, step s = .next t →
    t.rom = s.rom ∧ t.is128 = s.is128 ∧ t.params = s.params ∧
    (s.memorySelect.getLsbD 5 = true → t.memorySelect = s.memorySelect)

/-- Where every address reads and writes, for every MemorySelect (rules R71, R72, R74, R76, R77), and what `SetState` does (rule
R80). -/
def Obligations.AddressesReachTheirPages : Prop :=
  ∀ (s : State) (a : Word) (v : Byte),
    (a.toNat < 0x4000 → s.memRead a = s.rom.read ((s.memorySelect.getLsbD 4).toNat * 16384 + a.toNat) ∧
      s.memWrite a v = s) ∧
    (0x4000 ≤ a.toNat → a.toNat < 0x8000 → s.memRead a = s.ram.read (5 * 16384 + a.toNat % 16384) ∧
      OnlyByteWritten s (s.memWrite a v) (5 * 16384 + a.toNat % 16384) v) ∧
    (0x8000 ≤ a.toNat → a.toNat < 0xC000 → s.memRead a = s.ram.read (2 * 16384 + a.toNat % 16384) ∧
      OnlyByteWritten s (s.memWrite a v) (2 * 16384 + a.toNat % 16384) v) ∧
    (0xC000 ≤ a.toNat → s.memRead a = s.ram.read (s.memorySelect.toNat % 8 * 16384 + a.toNat % 16384) ∧
      OnlyByteWritten s (s.memWrite a v) (s.memorySelect.toNat % 8 * 16384 + a.toNat % 16384) v) ∧
    ∀ b, (s.setPaging b).memorySelect = (if s.memorySelect.getLsbD 5 then s.memorySelect else b) ∧
      Frame { s with memorySelect := (s.setPaging b).memorySelect } (s.setPaging b) [] []

/-- A byte read after a byte write, and a word read after a word write, at every address (rules R76, R77, R88, R90). -/
def Obligations.ReadAfterWrite : Prop :=
  ∀ (s : State) (a : Word) (v : Byte) (w : Word),
    (∀ b, (s.memWrite a v).memRead b =
      if 0x4000 ≤ a.toNat ∧ route s.memorySelect b = route s.memorySelect a then v else s.memRead b) ∧
    (s.memWrite16 a w).memRead16 a =
      (if a.toNat < 0x3FFF then s.memRead16 a
      else if a.toNat = 0x3FFF then joinBytes (hi8 w) (s.memRead a)
      else if a.toNat = 0xFFFF then joinBytes (s.memRead 0) (lo8 w)
      else w)

/-- Only `LD R,A` changes bit 7 of R; no other instruction changes R beyond its fetches, and one slot of an instruction
advances bits 6:0 by its count, which is that of the table of rule R130 for every form (rules R35, R36, R130). -/
def Obligations.RefreshRegisterCounts : Prop :=
  (∀ (i : Instr) (s t : State), i.complete = true → i.core ≠ .ldRA → exec i s = .next t → t.r = s.r) ∧
  (∀ (p : Config.Params) (i : Instr), i.wf = true → i.complete = true →
    rIncrements p i = fetchIncrements (rIncDdcbCount p) i.encode) ∧
  ∀ (s t : State) (i : Instr), s.nextSlot = .instruction → s.lookup [] = some i → i.core ≠ .ldRA → step s = .next t →
    t.r = countR s.r (rIncrements s.params i) ∧ t.r.getLsbD 7 = s.r.getLsbD 7

/-- T advances by the cost of the slot, which is at least 4; without contention an interrupt entry costs 11, 13 or 19, a mode 0
acceptance 2 more than the supplied instruction, a halted slot 4, and an instruction the T-states of rule R593, which gives
them for every finished instruction (rules R536, R551, R553, R590, R593). How contention enters is the model's choice (log entry 7),
and so is where the supplied byte comes from (log entry 6). -/
def Obligations.SlotsCostWhatTheSpecSays : Prop :=
  (∀ (s : State) (i : Instr), i.complete = true → ∃ n, Timed s i n) ∧
  ∀ s t : State, step s = .next t →
    t.t = s.t + s.slotCost ∧ 4 ≤ s.slotCost ∧
    (s.params.contention = .none →
      (s.nextSlot = .nmi → s.slotCost = 11) ∧
      (s.nextSlot = .int → s.im = .im1 → s.slotCost = 13) ∧
      (s.nextSlot = .int → s.im = .im2 → s.slotCost = 19) ∧
      (∀ i n, s.nextSlot = .int → s.im = .im0 →
        s.lookup [s.busAnswers.head?.getD (Config.freeBus s.busReads)] = some i → Timed s i n → s.slotCost = n + 2) ∧
      (s.nextSlot = .haltedNop → s.slotCost = 4) ∧
      ∀ i n, s.nextSlot = .instruction → s.lookup [] = some i → Timed s i n → s.slotCost = n)

/-- `step(max_t_states)` performs slots while the next one fits what is left of the budget: a slot that fits is performed and the
rest of the call goes on from the state it gives; one that does not fit ends the call, which changes nothing more. So it consumes at
most its budget and adds what it consumed to T (rule R551). A slot that has no step stops the call (rule R139; the fault is the
model's choice, log entry 11). -/
def Obligations.BudgetIsNeverExceeded : Prop :=
  ∀ (s : State) (max : Nat),
    (∀ t n, stepBudget s max = .next (t, n) →
      n ≤ max ∧ t.t = s.t + n ∧ ∀ u, step t = .next u → max < n + t.slotCost) ∧
    (∀ u, step s = .next u → max < s.slotCost → stepBudget s max = .next (s, 0)) ∧
    (∀ u, step s = .next u → s.slotCost ≤ max →
      (∀ t n, stepBudget u (max - s.slotCost) = .next (t, n) → stepBudget s max = .next (t, s.slotCost + n)) ∧
      (∀ f, stepBudget u (max - s.slotCost) = .fault f → stepBudget s max = .fault f)) ∧
    (∀ f, step s = .fault f → stepBudget s max = .fault f) ∧ ∀ r, stepBudget s max ≠ .refused r

/-! ## Loads and the stack -/

/-- The 8-bit loads into a register (rules R160 to R163, R168 to R170, R180, R181), and `LD A,I`, `LD A,R`, `LD I,A`, `LD R,A`
(rules R176 to R179) in the state after the fetch. -/
def Obligations.ByteLoadsSetTheirRegister : Prop :=
  (∀ (s : State) (i : Instr) (dst : Register) (v : Byte), LoadsByte s i dst v →
    ∃ t, exec i s = .next t ∧ t.register dst = v.toNat ∧ Frame s t [dst] []) ∧
  ∀ s : State,
    (∀ x ∈ [(Instr.ldAI, s.i), (.ldAR, s.r)], ∃ t, exec x.1 s = .next t ∧ t.main.a = x.2 ∧
      FlagsAre t.main.f (x.2.getLsbD 7 = true) (x.2 = 0) (x.2.getLsbD 5 = true) False (x.2.getLsbD 3 = true)
        (s.iff2 = true) False (flagC s.main.f = true) ∧
      Frame s t [.a, .f] []) ∧
    (∃ t, exec .ldIA s = .next t ∧ t.i = s.main.a ∧ Frame s t [.i] []) ∧
    (∃ t, exec .ldRA s = .next t ∧ t.r = s.main.a ∧ Frame s t [.r] [])

/-- The 8-bit loads into memory (rules R164 to R167, R171 to R173); a ROM address keeps its byte (rule R77). -/
def Obligations.ByteStoresSetTheirAddress : Prop :=
  ∀ (s : State) (i : Instr) (a : Word) (v : Byte), StoresByte s i a v →
    ∃ t, exec i s = .next t ∧ Stored s t a v ∧ Frame s t [] [a]

/-- The 16-bit loads into a register (rules R200 to R204, R208, R209). -/
def Obligations.WordLoadsSetTheirPair : Prop :=
  ∀ (s : State) (i : Instr) (dst : WordReg) (w : Word), LoadsWord s i dst w →
    ∃ t, exec i s = .next t ∧ t.word dst = w ∧ Frame s t dst.names []

/-- The 16-bit loads into memory, low byte at the lower address (rules R205 to R207). -/
def Obligations.WordStoresSetTwoBytes : Prop :=
  ∀ (s : State) (i : Instr) (a w : Word), StoresWord s i a w →
    ∃ t, exec i s = .next t ∧ Stored s t a (lo8 w) ∧ Stored s t (a + 1) (hi8 w) ∧ Frame s t [] [a, a + 1]

/-- `PUSH`: the high byte at SP-1, the low byte at SP-2. `POP`: the low byte from SP, the high byte from SP+1; `POP AF` loads all
of F (rules R14, R210 to R213). -/
def Obligations.PushAndPopMoveTheirPair : Prop :=
  (∀ (s : State) (i : Instr) (hi lo : Register) (vh vl : Byte), Pushes i hi lo →
    s.register hi = vh.toNat → s.register lo = vl.toNat →
    ∃ t, exec i s = .next t ∧ t.sp = s.sp - 2 ∧ Stored s t (s.sp - 1) vh ∧ Stored s t (s.sp - 2) vl ∧
      Frame s t [.sp] [s.sp - 1, s.sp - 2]) ∧
  ∀ (s : State) (i : Instr) (hi lo : Register), Pops i hi lo →
    ∃ t, exec i s = .next t ∧ t.sp = s.sp + 2 ∧ t.register lo = (s.memRead s.sp).toNat ∧
      t.register hi = (s.memRead (s.sp + 1)).toNat ∧ Frame s t [hi, lo, .sp] []

/-! ## Exchanges and blocks -/

/-- `EX DE,HL`, `EX AF,AF'`, `EXX` (rules R230 to R232), and `EX (SP),HL`, `EX (SP),IX`, `EX (SP),IY` (rules R233, R234). -/
def Obligations.ExchangesSwapTheirOperands : Prop :=
  (∀ s : State,
    (∃ t, exec .exDEHL s = .next t ∧ t.word .de = s.word .hl ∧ t.word .hl = s.word .de ∧
      Frame s t [.d, .e, .h, .l] []) ∧
    (∃ t, exec .exAFAF s = .next t ∧ t.main.a = s.shadow.a ∧ t.main.f = s.shadow.f ∧ t.shadow.a = s.main.a ∧
      t.shadow.f = s.main.f ∧ Frame s t [.a, .f, .a', .f'] []) ∧
    (∃ t, exec .exx s = .next t ∧
      (∀ p ∈ [(Register.b, Register.b'), (.c, .c'), (.d, .d'), (.e, .e'), (.h, .h'), (.l, .l')],
        t.register p.1 = s.register p.2 ∧ t.register p.2 = s.register p.1) ∧
      Frame s t [.b, .c, .d, .e, .h, .l, .b', .c', .d', .e', .h', .l'] [])) ∧
  ∀ (s : State) (i : Instr) (hi lo : Register) (vh vl : Byte), ExchangesTop i hi lo →
    s.register hi = vh.toNat → s.register lo = vl.toNat →
    ∃ t, exec i s = .next t ∧ t.register lo = (s.memRead s.sp).toNat ∧ t.register hi = (s.memRead (s.sp + 1)).toNat ∧
      Stored s t s.sp vl ∧ Stored s t (s.sp + 1) vh ∧ Frame s t [hi, lo] [s.sp, s.sp + 1]

/-- `LDI`, `LDIR`, `LDD`, `LDDR`, one iteration (rules R235 to R238). -/
def Obligations.BlockCopyMovesOneByte : Prop :=
  ∀ (s : State), ∀ x ∈ [(Instr.ldi, (1 : Word), false), (.ldir, 1, true), (.ldd, -1, false), (.lddr, -1, true)],
    let v := s.memRead (s.word .hl)
    let n := v + s.main.a
    let bc := s.word .bc - 1
    ∃ t, exec x.1 s = .next t ∧ Stored s t (s.word .de) v ∧
      t.word .hl = s.word .hl + x.2.1 ∧ t.word .de = s.word .de + x.2.1 ∧ t.word .bc = bc ∧
      FlagsAre t.main.f (flagS s.main.f = true) (flagZ s.main.f = true) (n.getLsbD 1 = true) False (n.getLsbD 3 = true)
        (bc ≠ 0) False (flagC s.main.f = true) ∧
      t.pc = (if x.2.2 = true ∧ bc ≠ 0 then s.pc - 2 else s.pc) ∧
      Frame s t [.b, .c, .d, .e, .h, .l, .f, .pc] [s.word .de]

/-- `CPI`, `CPIR`, `CPD`, `CPDR`, one iteration (rules R239 to R242). -/
def Obligations.BlockSearchComparesOneByte : Prop :=
  ∀ (s : State), ∀ x ∈ [(Instr.cpi, (1 : Word), false), (.cpir, 1, true), (.cpd, -1, false), (.cpdr, -1, true)],
    let v := s.memRead (s.word .hl)
    let res := s.main.a - v
    let borrow := s.main.a.toNat % 16 < v.toNat % 16
    let n := res - (if borrow then 1 else 0)
    let bc := s.word .bc - 1
    ∃ t, exec x.1 s = .next t ∧ t.word .hl = s.word .hl + x.2.1 ∧ t.word .bc = bc ∧
      FlagsAre t.main.f (res.getLsbD 7 = true) (res = 0) (n.getLsbD 1 = true) borrow (n.getLsbD 3 = true) (bc ≠ 0) True
        (flagC s.main.f = true) ∧
      t.pc = (if x.2.2 = true ∧ bc ≠ 0 ∧ res ≠ 0 then s.pc - 2 else s.pc) ∧
      Frame s t [.b, .c, .h, .l, .f, .pc] []

/-! ## 8-bit arithmetic and logic -/

/-- `ADD` and `ADC`, every operand form (rules R260, R270, R271). -/
def Obligations.AdditionsOfBytes : Prop :=
  ∀ (s : State) (x : Source), ∀ p ∈ [(addOf x, 0), (adcOf x, (flagC s.main.f).toNat)],
    let a := s.main.a
    let v := x.byte s
    let sum := a.toNat + v.toNat + p.2
    let res := BitVec.ofNat 8 sum
    ∃ t, exec p.1 s = .next t ∧ t.main.a = res ∧
      FlagsAre t.main.f (res.getLsbD 7 = true) (res = 0) (res.getLsbD 5 = true)
        (a.toNat % 16 + v.toNat % 16 + p.2 > 15) (res.getLsbD 3 = true)
        (((a ^^^ res) &&& (v ^^^ res)).getLsbD 7 = true) False (sum > 255) ∧
      Frame s t [.a, .f] []

/-- `SUB`, `SBC`, every operand form, and `NEG`, a subtraction from zero (rules R261, R272, R273, R302). -/
def Obligations.SubtractionsOfBytes : Prop :=
  ∀ (s : State) (x : Source) (y : Bits3),
    ∀ p ∈ [(subOf x, s.main.a, x.byte s, 0), (sbcOf x, s.main.a, x.byte s, (flagC s.main.f).toNat),
      (.neg, 0, s.main.a, 0), (.negCopies y, 0, s.main.a, 0)],
    let a := p.2.1
    let v := p.2.2.1
    let c := p.2.2.2
    let res := BitVec.ofInt 8 (a.toNat - v.toNat - c)
    ∃ t, exec p.1 s = .next t ∧ t.main.a = res ∧
      FlagsAre t.main.f (res.getLsbD 7 = true) (res = 0) (res.getLsbD 5 = true) (a.toNat % 16 < v.toNat % 16 + c)
        (res.getLsbD 3 = true) (((a ^^^ v) &&& (a ^^^ res)).getLsbD 7 = true) True (a.toNat < v.toNat + c) ∧
      Frame s t [.a, .f] []

/-- `AND`, `XOR`, `OR`, every operand form (rules R264, R274 to R276). -/
def Obligations.LogicOfBytes : Prop :=
  ∀ (s : State) (x : Source),
    ∀ p ∈ [(andOf x, s.main.a &&& x.byte s, true), (xorOf x, s.main.a ^^^ x.byte s, false),
      (orOf x, s.main.a ||| x.byte s, false)],
    let res := p.2.1
    ∃ t, exec p.1 s = .next t ∧ t.main.a = res ∧
      FlagsAre t.main.f (res.getLsbD 7 = true) (res = 0) (res.getLsbD 5 = true) (p.2.2 = true) (res.getLsbD 3 = true)
        (EvenOnes res) False False ∧
      Frame s t [.a, .f] []

/-- `CP`, every operand form: the flags of the subtraction, Y and X from the operand, A kept (rule R277). -/
def Obligations.ComparisonOfBytes : Prop :=
  ∀ (s : State) (x : Source),
    let a := s.main.a
    let v := x.byte s
    let res := a - v
    ∃ t, exec (cpOf x) s = .next t ∧
      FlagsAre t.main.f (res.getLsbD 7 = true) (res = 0) (v.getLsbD 5 = true) (a.toNat % 16 < v.toNat % 16)
        (v.getLsbD 3 = true) (((a ^^^ v) &&& (a ^^^ res)).getLsbD 7 = true) True (a.toNat < v.toNat) ∧
      Frame s t [.f] []

/-- `INC` and `DEC` of a byte, every operand form; C is kept (rules R262, R263, R278, R279). -/
def Obligations.IncrementAndDecrementOfBytes : Prop :=
  ∀ (s : State) (x : Target),
    let v := x.source.byte s
    (∃ t, exec (incOf x) s = .next t ∧ x.Wrote s t (v + 1) ∧
      FlagsAre t.main.f ((v + 1).getLsbD 7 = true) (v = 0xFF) ((v + 1).getLsbD 5 = true) (v.toNat % 16 = 15)
        ((v + 1).getLsbD 3 = true) (v = 0x7F) False (flagC s.main.f = true) ∧
      Frame s t (.f :: x.regs) (x.stored s)) ∧
    (∃ t, exec (decOf x) s = .next t ∧ x.Wrote s t (v - 1) ∧
      FlagsAre t.main.f ((v - 1).getLsbD 7 = true) (v = 1) ((v - 1).getLsbD 5 = true) (v.toNat % 16 = 0)
        ((v - 1).getLsbD 3 = true) (v = 0x80) True (flagC s.main.f = true) ∧
      Frame s t (.f :: x.regs) (x.stored s))

/-! ## General-purpose -/

/-- `DAA`, on every A and every F (rule R300). -/
def Obligations.DecimalAdjustFollowsTheAlgorithm : Prop :=
  ∀ s : State,
    let a := s.main.a.toNat
    let low := flagH s.main.f = true ∨ a % 16 > 9
    let high := flagC s.main.f = true ∨ a > 0x99
    let corr : Nat := (if low then 6 else 0) + (if high then 0x60 else 0)
    let res := if flagN s.main.f = true then BitVec.ofInt 8 ((a : Int) - (corr : Int)) else BitVec.ofNat 8 (a + corr)
    ∃ t, exec .daa s = .next t ∧ t.main.a = res ∧
      FlagsAre t.main.f (res.getLsbD 7 = true) (res = 0) (res.getLsbD 5 = true)
        (if flagN s.main.f = true then flagH s.main.f = true ∧ a % 16 < 6 else a % 16 > 9)
        (res.getLsbD 3 = true) (EvenOnes res) (flagN s.main.f = true) high ∧
      Frame s t [.a, .f] []

/-- `CPL`, `CCF`, `SCF` (rules R301, R303, R304). -/
def Obligations.ComplementAndCarryFlag : Prop :=
  ∀ s : State,
    let f := s.main.f
    let a := s.main.a
    (∃ t, exec .cpl s = .next t ∧ t.main.a = ~~~a ∧
      FlagsAre t.main.f (flagS f = true) (flagZ f = true) (a.getLsbD 5 = false) True (a.getLsbD 3 = false)
        (flagPV f = true) True (flagC f = true) ∧
      Frame s t [.a, .f] []) ∧
    (∃ t, exec .ccf s = .next t ∧
      FlagsAre t.main.f (flagS f = true) (flagZ f = true) (a.getLsbD 5 = true) (flagC f = true) (a.getLsbD 3 = true)
        (flagPV f = true) False (flagC f = false) ∧
      Frame s t [.f] []) ∧
    (∃ t, exec .scf s = .next t ∧
      FlagsAre t.main.f (flagS f = true) (flagZ f = true) (a.getLsbD 5 = true) False (a.getLsbD 3 = true)
        (flagPV f = true) False True ∧
      Frame s t [.f] [])

/-- `NOP` and the no-operations of the ED table, `HALT`, `DI`, `EI`, `IM` and its copies (rules R305 to R309, R311). -/
def Obligations.ControlInstructionsSetTheirLatch : Prop :=
  ∀ (s : State) (y : Bits3) (op : Byte),
    ∀ p ∈ [(Instr.nop, s), (.edNop op, s), (.halt, { s with halt := true }), (.di, { s with iff1 := false, iff2 := false }),
      (.ei, { s with iff1 := true, iff2 := true, eiDelay := true }), (.im0, { s with im := .im0 }),
      (.im0Copies y, { s with im := .im0 }), (.im1, { s with im := .im1 }), (.im1Copy, { s with im := .im1 }),
      (.im2, { s with im := .im2 }), (.im2Copy, { s with im := .im2 })],
    ∃ t, exec p.1 s = .next t ∧ Frame p.2 t [] []

/-! ## 16-bit arithmetic -/

/-- `ADD HL,ss` and `ADD XY,pp`: S, Z and P/V are kept (rules R320, R323, R324). -/
def Obligations.AdditionsOfWords : Prop :=
  ∀ (s : State) (ss : PairDD) (xy : XY) (pp : PairPP),
    ∀ p ∈ [(Instr.addHLSS ss, WordReg.hl, ss.name), (.addXYPP xy pp, xy.name, pp.name xy)],
    let a := (s.word p.2.1).toNat
    let b := (s.word p.2.2).toNat
    let res := BitVec.ofNat 16 (a + b)
    ∃ t, exec p.1 s = .next t ∧ t.word p.2.1 = res ∧
      FlagsAre t.main.f (flagS s.main.f = true) (flagZ s.main.f = true) (res.getLsbD 13 = true)
        (a % 4096 + b % 4096 > 4095) (res.getLsbD 11 = true) (flagPV s.main.f = true) False (a + b > 65535) ∧
      Frame s t (.f :: p.2.1.names) []

/-- `ADC HL,ss` and `SBC HL,ss` (rules R321, R322, R325, R326). -/
def Obligations.CarryArithmeticOfWords : Prop :=
  ∀ (s : State) (ss : PairDD),
    let a := s.word .hl
    let b := s.word ss.name
    let c := (flagC s.main.f).toNat
    let sum := BitVec.ofNat 16 (a.toNat + b.toNat + c)
    let diff := BitVec.ofInt 16 (a.toNat - b.toNat - c)
    (∃ t, exec (.adcHLSS ss) s = .next t ∧ t.word .hl = sum ∧
      FlagsAre t.main.f (sum.getLsbD 15 = true) (sum = 0) (sum.getLsbD 13 = true)
        (a.toNat % 4096 + b.toNat % 4096 + c > 4095) (sum.getLsbD 11 = true)
        (((a ^^^ sum) &&& (b ^^^ sum)).getLsbD 15 = true) False (a.toNat + b.toNat + c > 65535) ∧
      Frame s t [.f, .h, .l] []) ∧
    (∃ t, exec (.sbcHLSS ss) s = .next t ∧ t.word .hl = diff ∧
      FlagsAre t.main.f (diff.getLsbD 15 = true) (diff = 0) (diff.getLsbD 13 = true)
        (a.toNat % 4096 < b.toNat % 4096 + c) (diff.getLsbD 11 = true)
        (((a ^^^ b) &&& (a ^^^ diff)).getLsbD 15 = true) True (a.toNat < b.toNat + c) ∧
      Frame s t [.f, .h, .l] [])

/-- `INC` and `DEC` of a pair or an index register: no flag changes (rules R327 to R330). -/
def Obligations.IncrementAndDecrementOfWords : Prop :=
  ∀ (s : State) (ss : PairDD) (xy : XY),
    ∀ p ∈ [(Instr.incSS ss, ss.name, (1 : Word)), (.incXY xy, xy.name, 1), (.decSS ss, ss.name, -1),
      (.decXY xy, xy.name, -1)],
    ∃ t, exec p.1 s = .next t ∧ t.word p.2.1 = s.word p.2.1 + p.2.2 ∧ Frame s t p.2.1.names []

/-! ## Rotates, shifts, bits -/

/-- `RLCA`, `RLA`, `RRCA`, `RRA`: S, Z and P/V are kept (rules R340 to R343). -/
def Obligations.AccumulatorRotates : Prop :=
  ∀ s : State, ∀ p ∈ [(Instr.rlca, ShiftOp.rlc), (.rla, .rl), (.rrca, .rrc), (.rra, .rr)],
    let res := BitVec.ofNat 8 (shiftNat s.main.a.toNat (flagC s.main.f).toNat p.2)
    ∃ t, exec p.1 s = .next t ∧ t.main.a = res ∧
      FlagsAre t.main.f (flagS s.main.f = true) (flagZ s.main.f = true) (res.getLsbD 5 = true) False
        (res.getLsbD 3 = true) (flagPV s.main.f = true) False (shiftOut s.main.a.toNat p.2 = 1) ∧
      Frame s t [.a, .f] []

/-- The rotates and shifts of the CB tables, every operand form, the copying ones included (rules R344 to R353). -/
def Obligations.RotatesAndShifts : Prop :=
  ∀ (s : State) (o : ShiftOp) (x : BitTarget),
    let v := (x.byte s).toNat
    let res := BitVec.ofNat 8 (shiftNat v (flagC s.main.f).toNat o)
    ∃ t, exec (shiftOf o x) s = .next t ∧ x.Wrote s t res ∧
      FlagsAre t.main.f (res.getLsbD 7 = true) (res = 0) (res.getLsbD 5 = true) False (res.getLsbD 3 = true)
        (EvenOnes res) False (shiftOut v o = 1) ∧
      Frame s t (.f :: x.regs) (x.stored s)

/-- `RLD` and `RRD` (rules R360, R361). -/
def Obligations.DigitRotates : Prop :=
  ∀ s : State,
    let a := s.main.a.toNat
    let m := (s.memRead (s.word .hl)).toNat
    ∀ p ∈ [(Instr.rld, a / 16 * 16 + m / 16, m % 16 * 16 + a % 16), (.rrd, a / 16 * 16 + m % 16, a % 16 * 16 + m / 16)],
      let res := BitVec.ofNat 8 p.2.1
      ∃ t, exec p.1 s = .next t ∧ t.main.a = res ∧ Stored s t (s.word .hl) (BitVec.ofNat 8 p.2.2) ∧
        FlagsAre t.main.f (res.getLsbD 7 = true) (res = 0) (res.getLsbD 5 = true) False (res.getLsbD 3 = true)
          (EvenOnes res) False (flagC s.main.f = true) ∧
        Frame s t [.a, .f] [s.word .hl]

/-- `BIT`, every operand form: Y and X from the register, from H, or from the high byte of the address (rules R370 to R373);
the copies behave as the documented form. -/
def Obligations.BitTests : Prop :=
  ∀ (s : State) (b z : Bits3) (r : Reg8) (xy : XY) (d : Byte),
    let ea := s.word xy.name + d.signExtend 16
    ∀ p ∈ [(Instr.bitBR b r, s.main.get r, s.main.get r), (.bitBHL b, s.memRead (s.word .hl), s.main.h),
      (.bitBXYd xy d b, s.memRead ea, hi8 ea), (.bitBXYdCopies xy d b z, s.memRead ea, hi8 ea)],
    ∃ t, exec p.1 s = .next t ∧
      FlagsAre t.main.f (b = 7 ∧ p.2.1.getLsbD b.toNat = true) (p.2.1.getLsbD b.toNat = false)
        (p.2.2.getLsbD 5 = true) True (p.2.2.getLsbD 3 = true) (p.2.1.getLsbD b.toNat = false) False
        (flagC s.main.f = true) ∧
      Frame s t [.f] []

/-- `RES` and `SET`, every operand form, the copying ones included: one bit of the byte, no flag (rules R352, R376, R379). -/
def Obligations.BitResetAndSet : Prop :=
  ∀ (s : State) (b : Bits3) (x : BitTarget), ∀ p ∈ [(resOf b x, false), (setOf b x, true)],
    ∃ t res, exec p.1 s = .next t ∧ x.Wrote s t res ∧
      (∀ k < 8, res.getLsbD k = if k = b.toNat then p.2 else (x.byte s).getLsbD k) ∧
      Frame s t x.regs (x.stored s)

/-! ## Jumps, calls, returns -/

/-- `JP`, `JR` and `DJNZ`, taken and not taken: PC, and B for `DJNZ`, and no flag (rules R390 to R397). -/
def Obligations.JumpsSetPC : Prop :=
  ∀ s : State,
    (∀ (i : Instr) (target : Word), Jumps s i target → ∃ t, exec i s = .next t ∧ t.pc = target ∧ Frame s t [.pc] []) ∧
    ∀ e : Byte, ∃ t, exec (.djnzE e) s = .next t ∧ t.main.b = s.main.b - 1 ∧
      t.pc = (if s.main.b = 1 then s.pc else BitVec.ofInt 16 (s.pc.toNat + e.toInt)) ∧ Frame s t [.b, .pc] []

/-- `CALL` and `RST`: the address after the instruction on the stack, PC at the target; a call not taken changes nothing
(rules R400, R401, R410). -/
def Obligations.CallsPushTheReturnAddress : Prop :=
  ∀ s : State,
    (∀ (i : Instr) (target : Word), Calls s i target → ∃ t, exec i s = .next t ∧ t.pc = target ∧ t.sp = s.sp - 2 ∧
      Stored s t (s.sp - 1) (hi8 s.pc) ∧ Stored s t (s.sp - 2) (lo8 s.pc) ∧
      Frame s t [.pc, .sp] [s.sp - 1, s.sp - 2]) ∧
    ∀ (cc : Cond) (nn : Word), ¬cc.Holds s.main.f → exec (.callCcNN cc nn) s = .next s

/-- `RET`, `RET cc`, `RETI`, `RETN` and its copies: PC from the stack, IFF1 from IFF2 for the last three; a return not taken
changes nothing (rules R402, R403, R408, R409, R541). -/
def Obligations.ReturnsPopPC : Prop :=
  ∀ s : State,
    (∀ (i : Instr) (iff1 : Bool), Returns s i iff1 → ∃ t, exec i s = .next t ∧
      t.pc = joinBytes (s.memRead (s.sp + 1)) (s.memRead s.sp) ∧ t.sp = s.sp + 2 ∧
      Frame { s with iff1 := iff1 } t [.pc, .sp] []) ∧
    ∀ cc : Cond, ¬cc.Holds s.main.f → exec (.retCc cc) s = .next s

/-! ## Input and output -/

/-- `IN`: the byte is the host's next answer, or any byte; `IN A,(n)` sets no flag, the others do (rules R420 to R422,
R441). The queue of answers, the free byte and the trace are the model's choice (log entries 6 and 10). -/
def Obligations.InputsReadTheirPort : Prop :=
  ∀ (s : State) (i : Instr) (lo hi : Byte), ReadsPort s i lo hi →
    let v := s.portAnswers.head?.getD (Config.freePort s.portReads lo hi)
    let s1 := { s with
      portAnswers := s.portAnswers.tail, portReads := s.portReads + 1, trace := .input lo hi :: s.trace }
    let flags := fun f : Byte => FlagsAre f (v.getLsbD 7 = true) (v = 0) (v.getLsbD 5 = true) False (v.getLsbD 3 = true)
      (EvenOnes v) False (flagC s.main.f = true)
    ∃ t, exec i s = .next t ∧
      (∀ n, i = .inAN n → t.main.a = v ∧ Frame s1 t [.a] []) ∧
      (∀ r, i = .inRC r → t.register r.name = v.toNat ∧ flags t.main.f ∧ Frame s1 t [r.name, .f] []) ∧
      (i = .inFC → flags t.main.f ∧ Frame s1 t [.f] [])

/-- `OUT`: the event, the border latch from port 0xFE, the paging byte through the paging port unless PagingLock is set,
and no register or flag (rules R423, R424, R426, R442, R443, R445). The trace is the model's choice (log entry 10). -/
def Obligations.OutputsWriteTheirPort : Prop :=
  (∀ (s : State) (i : Instr) (lo hi v : Byte), WritesPort s i lo hi v →
    ∃ t, exec i s = .next t ∧
      Frame { s with
        trace := .output lo hi v :: s.trace
        border := if lo = 0xFE then v.extractLsb' 0 3 else s.border
        memorySelect := if s.isPagingPort lo hi = true ∧ s.memorySelect.getLsbD 5 = false then v else s.memorySelect }
        t [] []) ∧
  ∀ (s : State) (lo hi : Byte), s.params = Config.Params.default →
    (s.isPagingPort lo hi = true ↔ lo = 0xFD ∧ hi = 0x7F)

/-- `INI`, `INIR`, `IND`, `INDR`, one iteration: the port's high byte is B before its decrement (rules R427 to R432). The queue of
answers, the free byte and the trace are the model's choice (log entries 6 and 10). -/
def Obligations.BlockInputStoresOneByte : Prop :=
  ∀ s : State, ∀ x ∈ [(Instr.ini, (1 : Word), false), (.inir, 1, true), (.ind, -1, false), (.indr, -1, true)],
    let lo := s.main.c
    let hi := s.main.b
    let v := s.portAnswers.head?.getD (Config.freePort s.portReads lo hi)
    let s1 := { s with
      portAnswers := s.portAnswers.tail, portReads := s.portReads + 1, trace := .input lo hi :: s.trace }
    let b := s.main.b - 1
    let k := v.toNat + (s.main.c.toNat + x.2.1.toNat) % 256
    ∃ t, exec x.1 s = .next t ∧ Stored s t (s.word .hl) v ∧ t.word .hl = s.word .hl + x.2.1 ∧ t.main.b = b ∧
      FlagsAre t.main.f (b.getLsbD 7 = true) (b = 0) (b.getLsbD 5 = true) (k > 255) (b.getLsbD 3 = true)
        (EvenOnes (BitVec.ofNat 8 (k % 8) ^^^ b)) (v.getLsbD 7 = true) (k > 255) ∧
      t.pc = (if x.2.2 = true ∧ b ≠ 0 then s.pc - 2 else s.pc) ∧
      Frame s1 t [.b, .h, .l, .f, .pc] [s.word .hl]

/-- `OUTI`, `OTIR`, `OUTD`, `OTDR`, one iteration: the port's high byte is B after its decrement (rules R427, R430, R433 to
R436). -/
def Obligations.BlockOutputWritesOneByte : Prop :=
  ∀ s : State, ∀ x ∈ [(Instr.outi, (1 : Word), false), (.otir, 1, true), (.outd, -1, false), (.otdr, -1, true)],
    let v := s.memRead (s.word .hl)
    let b := s.main.b - 1
    let lo := s.main.c
    let k := v.toNat + (s.word .hl + x.2.1).toNat % 256
    ∃ t, exec x.1 s = .next t ∧ t.word .hl = s.word .hl + x.2.1 ∧ t.main.b = b ∧
      FlagsAre t.main.f (b.getLsbD 7 = true) (b = 0) (b.getLsbD 5 = true) (k > 255) (b.getLsbD 3 = true)
        (EvenOnes (BitVec.ofNat 8 (k % 8) ^^^ b)) (v.getLsbD 7 = true) (k > 255) ∧
      t.pc = (if x.2.2 = true ∧ b ≠ 0 then s.pc - 2 else s.pc) ∧
      Frame { s with
        trace := .output lo b v :: s.trace
        border := if lo = 0xFE then v.extractLsb' 0 3 else s.border
        memorySelect := if s.isPagingPort lo b = true ∧ s.memorySelect.getLsbD 5 = false then v else s.memorySelect }
        t [.b, .h, .l, .f, .pc] []

/-! ## Interrupts, halt, reset -/

/-- NMI entry, whatever IFF1, IM and EiDelay are: IFF1 cleared, IFF2 kept, PC on the stack, PC at 0x0066 (rules R531, R533,
R539, R540). -/
def Obligations.NmiEntry : Prop :=
  ∀ s : State, s.nmiPending = true →
    ∃ t, step s = .next t ∧ t.pc = 0x0066 ∧ t.sp = s.sp - 2 ∧ t.r = countR s.r 1 ∧
      Stored s t (s.sp - 1) (hi8 s.pc) ∧ Stored s t (s.sp - 2) (lo8 s.pc) ∧
      Frame { s with nmiPending := false, halt := false, eiDelay := false, iff1 := false, t := s.t + s.slotCost }
        t [.pc, .sp, .r] [s.sp - 1, s.sp - 2]

/-- Maskable acceptance in modes 1 and 2: both flip-flops cleared, PC on the stack, PC at 0x0038 or at the word the vector
names (rules R534, R535, R537, R538, R540). The queue of bus bytes and the free byte are the model's choice (log entry
6). -/
def Obligations.MaskableEntryInModes1And2 : Prop :=
  ∀ s : State, s.nmiPending = false → s.intPending = true → s.iff1 = true → s.eiDelay = false → s.im ≠ .im0 →
    let b := s.busAnswers.head?.getD (Config.freeBus s.busReads)
    let vector := joinBytes s.i (b &&& 0xFE)
    let s1 := { s with intPending := false, halt := false, eiDelay := false, iff1 := false, iff2 := false,
                       t := s.t + s.slotCost }
    ∃ t, step s = .next t ∧ t.sp = s.sp - 2 ∧ t.r = countR s.r 1 ∧
      Stored s t (s.sp - 1) (hi8 s.pc) ∧ Stored s t (s.sp - 2) (lo8 s.pc) ∧
      (s.im = .im1 → t.pc = 0x0038 ∧ Frame s1 t [.pc, .sp, .r] [s.sp - 1, s.sp - 2]) ∧
      (s.im = .im2 → t.pc = joinBytes (t.memRead (vector + 1)) (t.memRead vector) ∧
        Frame { s1 with busAnswers := s.busAnswers.tail, busReads := s.busReads + 1 }
          t [.pc, .sp, .r] [s.sp - 1, s.sp - 2])

/-- Maskable acceptance in mode 0: the supplied byte begins an instruction whose other bytes stand at PC; it executes with the
flip-flops cleared, PC past those bytes, and one R increment besides its own (rules R533, R534, R536). The queue of bus bytes and
the free byte are the model's choice (log entry 6). -/
def Obligations.MaskableEntryInMode0 : Prop :=
  ∀ (s : State) (n : Nat) (i : Instr) (rest : List Byte), s.nmiPending = false → s.intPending = true → s.iff1 = true →
    s.eiDelay = false → s.im = .im0 → n ≤ lookupWindow →
    decode (s.busAnswers.head?.getD (Config.freeBus s.busReads) :: s.bytesFrom n s.pc) = .ok (i, rest) →
    i.complete = true →
    ∃ t, exec i ({ s with intPending := false, halt := false, eiDelay := false, iff1 := false, iff2 := false,
                          busAnswers := s.busAnswers.tail, busReads := s.busReads + 1 }.fetchedBy
          (i.encode.length - 1) (1 + rIncrements s.params i)) = .next t ∧
      step s = .next { t with t := t.t + s.slotCost }

/-- The halted slot reads no memory and changes R, EiDelay and T only; `EI` defers a maskable acceptance by one instruction,
and only `EI` does (rules R308, R534, R552). -/
def Obligations.HaltedSlotAndEiDeferral : Prop :=
  (∀ s : State, s.nmiPending = false → (s.intPending = true → s.iff1 = false ∨ s.eiDelay = true) → s.halt = true →
    ∃ t, step s = .next t ∧ t.r = countR s.r 1 ∧ Frame { s with eiDelay := false, t := s.t + 4 } t [.r] []) ∧
  ∀ (s t : State) (i : Instr), s.nextSlot = .instruction → s.lookup [] = some i → step s = .next t →
    (t.eiDelay = true ↔ i.core = .ei) ∧ (i.core = .ei → t.nextSlot ≠ .int)

/-- `reset()` from every state, for every draw of `ResetGPR` (rules R50, R570). -/
def Obligations.ResetSetsTheDocumentedState : Prop :=
  ∀ (s : State) (g : ResetGPR),
    let t := s.resetWith g
    t.pc = 0x0000 ∧ t.sp = 0xFFFF ∧ t.main.a = 0xFF ∧ t.main.f = 0xFF ∧ t.iff1 = false ∧ t.iff2 = false ∧ t.im = .im0 ∧
    t.i = 0 ∧ t.r = 0 ∧ t.halt = false ∧ t.eiDelay = false ∧ t.intPending = false ∧ t.nmiPending = false ∧ t.t = 0 ∧
    t.memorySelect = (if s.is128 then 0x00 else 0x30) ∧ t.is128 = s.is128 ∧ t.border = s.border ∧ t.ram = s.ram ∧
    t.rom = s.rom ∧ t.word .bc = g.bc ∧ t.word .de = g.de ∧ t.word .hl = g.hl ∧ t.ix = g.ix ∧ t.iy = g.iy ∧
    t.shadow = g.shadow

/-! ## Snapshots and the screen -/

/-- The run-length code loses nothing, for every byte sequence (rule R482). -/
def Obligations.DecompressOfCompressIsTheBytes : Prop :=
  ∀ b : List Byte, decompress (compress b) b.length = b

/-- A saved machine loads into any machine, with every register, the mode, paging and every existing page as they were, the
latches clear, and T and ROM those of the machine loaded into (rule R513). -/
def Obligations.LoadOfSaveIsTheMachine : Prop :=
  ∀ (s s' : State) (fresh : Memory), s.Inv →
    ∃ t, s'.load s.save fresh = some t ∧ (∀ q, t.register q = s.register q) ∧ t.iff1 = s.iff1 ∧ t.iff2 = s.iff2 ∧
      t.im = s.im ∧ t.border = s.border ∧ t.is128 = s.is128 ∧ t.memorySelect = s.memorySelect ∧
      (∀ bank : Bits3, bank.toNat ∈ ramPages s.is128 → t.readPage bank = s.readPage bank) ∧
      t.halt = false ∧ t.eiDelay = false ∧ t.intPending = false ∧ t.nmiPending = false ∧ t.t = s'.t ∧ t.rom = s'.rom

/-- An attribute byte written by the CPU to the displayed page, 5 or 7, comes back from the host word of the model's view of that
page; the two conversions compose to the identity on every byte (rules R82, R84, R85, R86). The view is the model's choice (log
entry 17): rule R87 leaves what the renderer sees outside the spec. -/
def Obligations.AttributesSurviveTheHostForm : Prop :=
  (∀ v : Byte, toSpectrumColor (fromSpectrumColor v) = v) ∧
  ∀ (s : State) (o : BitVec 14) (v : Byte), 0x1800 ≤ o.toNat → o.toNat < 0x1B00 →
    (s.memorySelect.getLsbD 3 = false →
      ∃ w, (s.memWrite (0x4000 + o.setWidth 16) v).displayed o = .colors w ∧ toSpectrumColor w = v) ∧
    (s.memorySelect.getLsbD 3 = true → s.memorySelect.toNat % 8 = 7 →
      ∃ w, (s.memWrite (0xC000 + o.setWidth 16) v).displayed o = .colors w ∧ toSpectrumColor w = v)

/-- A file of version 1, 2 or 3 whose headers and blocks are in order loads: the registers of the header with `Flags1` = 255 read as
1, PC, mode and paging of the version, and every page the last block for it gives; where the mode stays, or becomes 48K, a page without
one keeps its content (rules R461 to R469, R500, R502 to R504). From 48K to 128K rule R503 leaves every page the file does not supply
unspecified: that pages 0, 2 and 5 then keep their content, and that the other pages are the draw `fresh`, is the model's choice (log
entry 12), not the spec's. -/
def Obligations.LoadSetsWhatTheFileHolds : Prop :=
  ∀ (s : State) (fresh : Memory),
    (∀ (f : ExtendedFile) (tail : List Byte), f.WellHeaded → (∀ b ∈ f.blocks, b.Loads f.is128) → FileEnd tail →
      ∃ t, s.load (f.bytes ++ tail) fresh = some t ∧ HeaderLoaded f.header s t ∧
        t.pc = joinBytes (f.ext.getD 1 0) (f.ext.getD 0 0) ∧ t.is128 = f.is128 ∧
        t.memorySelect = (if f.is128 then f.ext.getD 3 0 else 0x30) ∧
        ∀ bank : Bits3, bank.toNat ∈ ramPages f.is128 → t.readPage bank =
          ((f.blocks.reverse.find? (·.isFor f.is128 bank.toNat)).map (·.page 16384)).getD (pageBefore s fresh bank)) ∧
    ∀ header body : List Byte, Version1Header header →
      let mem := bodyOf s.params header body 49152
      mem.length = 49152 →
      ∃ t, s.load (header ++ body) fresh = some t ∧ HeaderLoaded header s t ∧
        t.pc = joinBytes (header.getD 7 0) (header.getD 6 0) ∧ t.is128 = false ∧ t.memorySelect = 0x30 ∧
        t.readPage 5 = mem.take 16384 ∧ t.readPage 2 = (mem.drop 16384).take 16384 ∧ t.readPage 0 = mem.drop 32768

/-- Every file with a defect of the list fails to load, and a load that fails leaves the machine as it was (rules R500, R501, R506). -/
def Obligations.FilesThatFailChangeNothing : Prop :=
  ∀ (s : State) (fresh : Memory),
    (∀ file, s.load file fresh = none → (HostCall.load file fresh).run s = s) ∧
    (∀ file, BadHeader file → s.load file fresh = none) ∧
    (∀ (f : ExtendedFile) (rest : List Byte), f.WellHeaded → (∀ b ∈ f.blocks, b.Loads f.is128) →
      (CutOff rest → s.load (f.bytes ++ rest) fresh = none) ∧
      ∀ b : FileBlock, b.Sized → ¬b.Loads f.is128 → s.load (f.bytes ++ b.bytes ++ rest) fresh = none) ∧
    ∀ header body : List Byte, Version1Header header → (bodyOf s.params header body 49152).length ≠ 49152 →
      s.load (header ++ body) fresh = none

/-- `Screenshot`: the first 6912 bytes of the first block with page id 8, or of a version 1 body; a failure where the headers are
bad, where no such block comes before the end of the file, or where there are fewer bytes (rule R515). -/
def Obligations.ScreenshotIsTheStartOfPage5 : Prop :=
  ∀ p : Config.Params,
    (∀ file, BadHeader file → screenshot p file = none) ∧
    (∀ header body : List Byte, Version1Header header →
      let screen := bodyOf p header body 6912
      screenshot p (header ++ body) = if screen.length = 6912 then some screen else none) ∧
    ∀ f : ExtendedFile, f.WellHeaded → (∀ b ∈ f.blocks, b.Sized ∧ b.id ≠ 8) →
      (∀ (b : FileBlock) (rest : List Byte), b.Sized → b.id = 8 →
        screenshot p (f.bytes ++ b.bytes ++ rest) =
          if (b.page 6912).length = 6912 then some (b.page 6912) else none) ∧
      ∀ rest, FileEnd rest ∨ CutOff rest → screenshot p (f.bytes ++ rest) = none
end

