-- ==== Sys2Proof/Laws/Bits.lean ====
section
/-! SUPPORT. Bytes and words as halves of each other, and the bits of a flag byte. -/

namespace Sys2Proof

theorem joinBytes_toNat (h l : Byte) : (joinBytes h l).toNat = h.toNat * 256 + l.toNat := by
  simp only [joinBytes, BitVec.toNat_append]
  rw [← Nat.shiftLeft_add_eq_or_of_lt l.isLt, Nat.shiftLeft_eq]

theorem hi8_toNat (w : Word) : (hi8 w).toNat = w.toNat / 256 := by
  have := w.isLt
  simp [hi8, BitVec.extractLsb'_toNat, Nat.shiftRight_eq_div_pow]; omega

theorem lo8_toNat (w : Word) : (lo8 w).toNat = w.toNat % 256 := by
  simp [lo8, BitVec.extractLsb'_toNat]

@[simp] theorem hi8_joinBytes (h l : Byte) : hi8 (joinBytes h l) = h := by
  have := l.isLt
  apply BitVec.eq_of_toNat_eq; rw [hi8_toNat, joinBytes_toNat]; omega

@[simp] theorem lo8_joinBytes (h l : Byte) : lo8 (joinBytes h l) = l := by
  have := l.isLt
  apply BitVec.eq_of_toNat_eq; rw [lo8_toNat, joinBytes_toNat]; omega

@[simp] theorem joinBytes_hi8_lo8 (w : Word) : joinBytes (hi8 w) (lo8 w) = w := by
  apply BitVec.eq_of_toNat_eq; rw [joinBytes_toNat, hi8_toNat, lo8_toNat]; omega

/-- A word is its two halves. -/
theorem word_eq_iff {w w' : Word} : w = w' ↔ hi8 w = hi8 w' ∧ lo8 w = lo8 w' := by
  constructor
  · rintro rfl; exact ⟨rfl, rfl⟩
  · rintro ⟨h, l⟩; rw [← joinBytes_hi8_lo8 w, h, l, joinBytes_hi8_lo8]

namespace Machine

section FlagByte
variable (s z y h x pv n c : Bool)

@[simp] theorem flagS_flagByte : flagS (flagByte s z y h x pv n c) = s := by
  revert s z y h x pv n c; decide
@[simp] theorem flagZ_flagByte : flagZ (flagByte s z y h x pv n c) = z := by
  revert s z y h x pv n c; decide
@[simp] theorem flagY_flagByte : flagY (flagByte s z y h x pv n c) = y := by
  revert s z y h x pv n c; decide
@[simp] theorem flagH_flagByte : flagH (flagByte s z y h x pv n c) = h := by
  revert s z y h x pv n c; decide
@[simp] theorem flagX_flagByte : flagX (flagByte s z y h x pv n c) = x := by
  revert s z y h x pv n c; decide
@[simp] theorem flagPV_flagByte : flagPV (flagByte s z y h x pv n c) = pv := by
  revert s z y h x pv n c; decide
@[simp] theorem flagN_flagByte : flagN (flagByte s z y h x pv n c) = n := by
  revert s z y h x pv n c; decide
@[simp] theorem flagC_flagByte : flagC (flagByte s z y h x pv n c) = c := by
  revert s z y h x pv n c; decide

end FlagByte

/-- The flags of an `or` of two flag bytes. -/
theorem flags_or (f g : Byte) :
    flagS (f ||| g) = (flagS f || flagS g) ∧ flagZ (f ||| g) = (flagZ f || flagZ g) ∧
    flagY (f ||| g) = (flagY f || flagY g) ∧ flagH (f ||| g) = (flagH f || flagH g) ∧
    flagX (f ||| g) = (flagX f || flagX g) ∧ flagPV (f ||| g) = (flagPV f || flagPV g) ∧
    flagN (f ||| g) = (flagN f || flagN g) ∧ flagC (f ||| g) = (flagC f || flagC g) := by
  simp [flagS, flagZ, flagY, flagH, flagX, flagPV, flagN, flagC]

/-- The flags of an `and` of two flag bytes. -/
theorem flags_and (f g : Byte) :
    flagS (f &&& g) = (flagS f && flagS g) ∧ flagZ (f &&& g) = (flagZ f && flagZ g) ∧
    flagY (f &&& g) = (flagY f && flagY g) ∧ flagH (f &&& g) = (flagH f && flagH g) ∧
    flagX (f &&& g) = (flagX f && flagX g) ∧ flagPV (f &&& g) = (flagPV f && flagPV g) ∧
    flagN (f &&& g) = (flagN f && flagN g) ∧ flagC (f &&& g) = (flagC f && flagC g) := by
  simp [flagS, flagZ, flagY, flagH, flagX, flagPV, flagN, flagC]

end Machine

end Sys2Proof
end

