-- ==== Sys2Proof/Laws/Budget.lean ====
section
/-! SUPPORT. The budgeted step: T-states already spent are an offset, and more fuel than the slots need changes nothing. -/

namespace Sys2Proof.Machine

theorem stepWithin_shift (max fuel total c : Nat) (s : State) :
    stepWithin (max + c) fuel (total + c) s =
      match stepWithin max fuel total s with
      | .next (t, n) => .next (t, n + c)
      | .fault f => .fault f
      | .refused r => .refused r := by
  induction fuel generalizing total s with
  | zero => rfl
  | succ n ih =>
    simp only [stepWithin]
    cases step s with
    | next u =>
      simp only
      by_cases hc : total + s.slotCost > max
      · rw [if_pos hc, if_pos (by omega)]
      · rw [if_neg hc, if_neg (by omega), ← ih]
        congr 1
        omega
    | fault f => rfl
    | refused r => rfl

/-- `h4`: every slot costs at least 4 T-states (rule R553). -/
theorem stepWithin_fuel (h4 : ∀ s u, step s = .next u → 4 ≤ s.slotCost) {max n m total : Nat} (s : State)
    (hn : (max - total) / 4 + 1 ≤ n) (hm : (max - total) / 4 + 1 ≤ m) (ht : total ≤ max) :
    stepWithin max n total s = stepWithin max m total s := by
  induction n generalizing m total s with
  | zero => omega
  | succ n ih =>
    cases m with
    | zero => omega
    | succ m =>
      simp only [stepWithin]
      cases h : step s with
      | next u =>
        have := h4 s u h
        simp only
        by_cases hc : total + s.slotCost > max
        · simp [hc]
        · rw [if_neg hc, if_neg hc]
          exact ih _ (by omega) (by omega) (by omega)
      | fault f => rfl
      | refused r => rfl

end Sys2Proof.Machine
end

