-- ==== Sys2Proof/Laws/Memory.lean ====
section
/-! SUPPORT. The sparse memory: every read after every write, the canonical form kept by every operation, and the pages. -/

namespace Sys2Proof.Machine

namespace Memory

/-! ## Reads -/

@[simp] theorem read_nil (a : Nat) : read [] a = blank := rfl

theorem read_cons (k : Nat) (v : Byte) (m : Memory) (a : Nat) :
    read ((k, v) :: m) a = if k = a then v else read m a := rfl

/-- A key that no cell has reads as blank. -/
theorem read_eq_blank {m : Memory} {a : Nat} (h : ∀ c ∈ m, c.1 ≠ a) : read m a = blank := by
  induction m with
  | nil => rfl
  | cons c m ih =>
    obtain ⟨k, v⟩ := c
    rw [read_cons, if_neg (h (k, v) (by simp))]
    exact ih fun c hc => h c (by simp [hc])

theorem read_append_left {m m' : Memory} {a : Nat} (h : ∀ c ∈ m', c.1 ≠ a) : read (m ++ m') a = read m a := by
  induction m with
  | nil => exact read_eq_blank h
  | cons c m ih =>
    obtain ⟨k, v⟩ := c
    rw [List.cons_append, read_cons, read_cons, ih]

theorem read_append_right {m m' : Memory} {a : Nat} (h : ∀ c ∈ m, c.1 ≠ a) : read (m ++ m') a = read m' a := by
  induction m with
  | nil => rfl
  | cons c m ih =>
    obtain ⟨k, v⟩ := c
    rw [List.cons_append, read_cons, if_neg (h (k, v) (by simp)), ih fun c hc => h c (by simp [hc])]

/-- A filter that keeps every cell of key `a` keeps what `a` reads as. -/
theorem read_filter {m : Memory} {p : Host.Cell → Bool} {a : Nat} (h : ∀ v, p (a, v) = true) :
    read (m.filter p) a = read m a := by
  induction m with
  | nil => rfl
  | cons c m ih =>
    obtain ⟨k, v⟩ := c
    by_cases hk : k = a
    · subst hk; simp [h, read_cons]
    · by_cases hp : p (k, v) = true <;> simp [hp, read_cons, hk, ih]

theorem read_insert (m : Memory) (a : Nat) (v : Byte) (b : Nat) :
    read (m.insert a v) b = if b = a then v else read m b := by
  induction m with
  | nil => simp [insert, read_cons, eq_comm]
  | cons c m ih =>
    obtain ⟨k, w⟩ := c
    simp only [insert]
    split
    · by_cases h : b = a
      · simp [read_cons, h]
      · simp [read_cons, h, Ne.symm h]
    · split
      · next hk =>
        subst hk
        by_cases h : b = a
        · simp [read_cons, h]
        · simp [read_cons, h, Ne.symm h]
      · next h =>
        rw [read_cons, read_cons, ih]
        by_cases hb : b = a
        · subst hb; simp [Ne.symm h]
        · simp [hb]

/-- The one law of a write. -/
theorem read_write (m : Memory) (a : Nat) (v : Byte) (b : Nat) :
    read (m.write a v) b = if b = a then v else read m b := by
  unfold write
  split
  · next hv =>
    by_cases h : b = a
    · rw [if_pos h, h, hv]
      exact read_eq_blank fun c hc => by simpa using (List.mem_filter.1 hc).2
    · rw [if_neg h]
      exact read_filter fun w => by simpa using h
  · exact read_insert m a v b

/-! ## The canonical form -/

theorem wfFrom_nil (size low : Nat) : wfFrom size low [] = true := rfl

theorem wfFrom_cons {size low k : Nat} {v : Byte} {m : Memory} :
    wfFrom size low ((k, v) :: m) = true ↔
      low ≤ k ∧ k < size ∧ v ≠ blank ∧ wfFrom size (k + 1) m = true := by
  simp [wfFrom, and_assoc]

/-- Every cell of a canonical memory lies in its range and is not blank. -/
theorem wfFrom_mem {size low : Nat} {m : Memory} (h : wfFrom size low m = true) :
    ∀ c ∈ m, low ≤ c.1 ∧ c.1 < size ∧ c.2 ≠ blank := by
  induction m generalizing low with
  | nil => simp
  | cons c m ih =>
    obtain ⟨k, v⟩ := c
    obtain ⟨h1, h2, h3, h4⟩ := wfFrom_cons.1 h
    intro c hc
    rcases List.mem_cons.1 hc with rfl | hc
    · exact ⟨h1, h2, h3⟩
    · obtain ⟨g1, g2, g3⟩ := ih h4 c hc; exact ⟨by omega, g2, g3⟩

theorem wfFrom_mono {size low low' : Nat} {m : Memory} (hl : low' ≤ low) (h : wfFrom size low m = true) :
    wfFrom size low' m = true := by
  cases m with
  | nil => rfl
  | cons c m =>
    obtain ⟨k, v⟩ := c
    obtain ⟨h1, h2, h3, h4⟩ := wfFrom_cons.1 h
    exact wfFrom_cons.2 ⟨by omega, h2, h3, h4⟩

theorem wfFrom_filter {size low : Nat} {m : Memory} (p : Host.Cell → Bool) (h : wfFrom size low m = true) :
    wfFrom size low (m.filter p) = true := by
  induction m generalizing low with
  | nil => rfl
  | cons c m ih =>
    obtain ⟨k, v⟩ := c
    obtain ⟨h1, h2, h3, h4⟩ := wfFrom_cons.1 h
    by_cases hp : p (k, v) = true
    · rw [List.filter_cons_of_pos hp]; exact wfFrom_cons.2 ⟨h1, h2, h3, ih h4⟩
    · rw [List.filter_cons_of_neg hp]; exact wfFrom_mono (by omega) (ih h4)

theorem wfFrom_insert {size low a : Nat} {v : Byte} {m : Memory} (h : wfFrom size low m = true) (hl : low ≤ a)
    (ha : a < size) (hv : v ≠ blank) : wfFrom size low (m.insert a v) = true := by
  induction m generalizing low with
  | nil => exact wfFrom_cons.2 ⟨hl, ha, hv, rfl⟩
  | cons c m ih =>
    obtain ⟨k, w⟩ := c
    obtain ⟨h1, h2, h3, h4⟩ := wfFrom_cons.1 h
    simp only [insert]
    split
    · exact wfFrom_cons.2 ⟨hl, ha, hv, wfFrom_cons.2 ⟨by omega, h2, h3, h4⟩⟩
    · split
      · next h => subst h; exact wfFrom_cons.2 ⟨hl, ha, hv, h4⟩
      · exact wfFrom_cons.2 ⟨h1, h2, h3, ih h4 (by omega)⟩

/-- A write keeps the canonical form. -/
theorem wf_write {size a : Nat} {m : Memory} (h : m.wf size = true) (ha : a < size) (v : Byte) :
    (m.write a v).wf size = true := by
  unfold write
  split
  · exact wfFrom_filter _ h
  · next hv => exact wfFrom_insert h (Nat.zero_le _) ha hv

theorem wfFrom_append {size mid low : Nat} {m m' : Memory} (hm : mid ≤ size) (hl : low ≤ mid)
    (h : wfFrom mid low m = true) (h' : wfFrom size mid m' = true) : wfFrom size low (m ++ m') = true := by
  induction m generalizing low with
  | nil => exact wfFrom_mono hl h'
  | cons c m ih =>
    obtain ⟨k, v⟩ := c
    obtain ⟨h1, h2, h3, h4⟩ := wfFrom_cons.1 h
    exact wfFrom_cons.2 ⟨h1, by omega, h3, ih (by omega) h4⟩

/-- A canonical memory all of whose cells lie in a range is canonical for that range. -/
theorem wfFrom_range {size size' low low' : Nat} {m : Memory} (h : wfFrom size low m = true)
    (hr : ∀ c ∈ m, low' ≤ c.1 ∧ c.1 < size') : wfFrom size' low' m = true := by
  induction m generalizing low low' with
  | nil => rfl
  | cons c m ih =>
    obtain ⟨k, v⟩ := c
    obtain ⟨h1, h2, h3, h4⟩ := wfFrom_cons.1 h
    obtain ⟨g1, g2⟩ := hr (k, v) (by simp)
    refine wfFrom_cons.2 ⟨g1, g2, h3, ih h4 fun c hc => ?_⟩
    exact ⟨(wfFrom_mem h4 c hc).1, (hr c (by simp [hc])).2⟩

/-- Equal reads, equal memories: the canonical form is one per contents. -/
theorem wfFrom_ext {size low : Nat} {m m' : Memory} (h : wfFrom size low m = true) (h' : wfFrom size low m' = true)
    (hr : ∀ a, read m a = read m' a) : m = m' := by
  have first {low : Nat} {k : Nat} {v : Byte} {n n' : Memory} (g : wfFrom size low ((k, v) :: n) = true)
      (g' : wfFrom size (k + 1) n' = true) (e : ∀ a, read ((k, v) :: n) a = read n' a) : False := by
    have := e k
    rw [read_cons, if_pos rfl, read_eq_blank fun c hc => by have := (wfFrom_mem g' c hc).1; omega] at this
    exact (wfFrom_cons.1 g).2.2.1 this
  induction m generalizing low m' with
  | nil =>
    cases m' with
    | nil => rfl
    | cons c m' => exact (first h' (wfFrom_nil _ _) fun a => (hr a).symm).elim
  | cons c m ih =>
    cases m' with
    | nil => exact (first h (wfFrom_nil _ _) hr).elim
    | cons c' m' =>
      obtain ⟨k, v⟩ := c
      obtain ⟨k', v'⟩ := c'
      obtain ⟨g1, g2, g3, g4⟩ := wfFrom_cons.1 h
      obtain ⟨g1', g2', g3', g4'⟩ := wfFrom_cons.1 h'
      rcases Nat.lt_trichotomy k k' with hk | rfl | hk
      · exact (first h (wfFrom_cons.2 ⟨hk, g2', g3', g4'⟩) hr).elim
      · have hv : v = v' := by have := hr k; simpa [read_cons] using this
        subst hv
        rw [ih g4 g4' fun a => ?_]
        by_cases ha : k = a
        · subst ha
          rw [read_eq_blank fun c hc => by have := (wfFrom_mem g4 c hc).1; omega,
            read_eq_blank fun c hc => by have := (wfFrom_mem g4' c hc).1; omega]
        · have := hr a; simpa [read_cons, ha] using this
      · exact (first h' (wfFrom_cons.2 ⟨hk, g2, g3, g4⟩) fun a => (hr a).symm).elim

/-! ## Pages -/

theorem cells_key {k : Nat} {bytes : List Byte} : ∀ c ∈ cells k bytes, k ≤ c.1 ∧ c.1 < k + bytes.length := by
  induction bytes generalizing k with
  | nil => simp [cells]
  | cons v vs ih =>
    intro c hc
    simp only [cells] at hc
    have ih' := @ih (k + 1) c
    split at hc
    · have := ih' hc; simp; omega
    · rcases List.mem_cons.1 hc with rfl | hc
      · simp
      · have := ih' hc; simp; omega

theorem read_cells (k : Nat) (bytes : List Byte) (a : Nat) :
    read (cells k bytes) a = if k ≤ a ∧ a < k + bytes.length then bytes.getD (a - k) blank else blank := by
  by_cases h : k ≤ a ∧ a < k + bytes.length
  · rw [if_pos h]
    obtain ⟨h1, h2⟩ := h
    induction bytes generalizing k with
    | nil => simp at h2; omega
    | cons v vs ih =>
      simp only [cells]
      by_cases ha : k = a
      · subst ha
        split
        · next hv =>
          rw [read_eq_blank fun c hc => by have := (cells_key c hc).1; omega]; simp [hv]
        · simp [read_cons]
      · have h3 : a < k + 1 + vs.length := by simp at h2; omega
        have := ih (k + 1) (by omega) h3
        have e : a - k = (a - (k + 1)) + 1 := by omega
        split
        · rw [this, e]; simp
        · rw [read_cons, if_neg ha, this, e]; simp
  · rw [if_neg h]
    exact read_eq_blank fun c hc e => h (e ▸ cells_key c hc)

theorem wfFrom_cells {size low k : Nat} {bytes : List Byte} (hl : low ≤ k) (hs : k + bytes.length ≤ size) :
    wfFrom size low (cells k bytes) = true := by
  induction bytes generalizing low k with
  | nil => rfl
  | cons v vs ih =>
    simp only [List.length_cons] at hs
    simp only [cells]
    split
    · exact ih (by omega) (by omega)
    · next hv => exact wfFrom_cons.2 ⟨hl, by omega, hv, ih (by omega) (by omega)⟩

/-- What every key reads as after a page is replaced. -/
theorem read_setPage (m : Memory) (page : Nat) {bytes : List Byte} (hb : bytes.length = pageSize) (a : Nat) :
    read (m.setPage page bytes) a =
      if pageKey page 0 ≤ a ∧ a < pageKey (page + 1) 0 then bytes.getD (a - pageKey page 0) blank else read m a := by
  have hk : pageKey (page + 1) 0 = pageKey page 0 + pageSize := by simp only [pageKey, Nat.add_mul]; omega
  have hz : 0 < pageSize := by decide
  have hlow : ¬a < pageKey page 0 → ∀ c ∈ m.filter fun c => decide (c.1 < pageKey page 0), c.1 ≠ a := fun h c hc e => by
    have := (List.mem_filter.1 hc).2; simp at this; omega
  have hhigh : ¬pageKey (page + 1) 0 ≤ a → ∀ c ∈ m.filter fun c => decide (pageKey (page + 1) 0 ≤ c.1), c.1 ≠ a :=
    fun h c hc e => by have := (List.mem_filter.1 hc).2; simp at this; omega
  have hmid : ¬(pageKey page 0 ≤ a ∧ a < pageKey (page + 1) 0) → ∀ c ∈ cells (pageKey page 0) bytes, c.1 ≠ a :=
    fun h c hc e => by have := cells_key c hc; omega
  unfold setPage
  by_cases h : pageKey page 0 ≤ a ∧ a < pageKey (page + 1) 0
  · rw [if_pos h, read_append_left (hhigh (by omega)), read_append_right (hlow (by omega)), read_cells, if_pos (by omega)]
  · rw [if_neg h]
    by_cases h1 : a < pageKey page 0
    · rw [read_append_left (hhigh (by omega)), read_append_left (hmid h)]
      exact read_filter fun v => by simpa using h1
    · rw [List.append_assoc, read_append_right (hlow h1), read_append_right (hmid h)]
      exact read_filter fun v => by simp; omega

/-- Replacing a page keeps the canonical form. -/
theorem wf_setPage {size page : Nat} {m : Memory} {bytes : List Byte} (h : m.wf size = true)
    (hb : bytes.length = pageSize) (hp : pageKey (page + 1) 0 ≤ size) : (m.setPage page bytes).wf size = true := by
  have hk : pageKey (page + 1) 0 = pageKey page 0 + pageSize := by simp only [pageKey, Nat.add_mul]; omega
  refine wfFrom_append (mid := pageKey (page + 1) 0) hp (Nat.zero_le _) (wfFrom_append (mid := pageKey page 0)
    (by omega) (Nat.zero_le _) ?_ ?_) ?_
  · refine wfFrom_range (wfFrom_filter _ h) fun c hc => ⟨Nat.zero_le _, ?_⟩
    simpa using (List.mem_filter.1 hc).2
  · exact wfFrom_cells (Nat.le_refl _) (by omega)
  · refine wfFrom_range (wfFrom_filter _ h) fun c hc => ⟨?_, ?_⟩
    · simpa using (List.mem_filter.1 hc).2
    · exact (wfFrom_mem h c (List.mem_filter.1 hc).1).2.1

@[simp] theorem length_page (m : Memory) (page : Nat) : (m.page page).length = pageSize := by simp [Memory.page]

theorem getD_page (m : Memory) (page o : Nat) (h : o < pageSize) : (m.page page).getD o blank = m.read (pageKey page o) := by
  simp [Memory.page, List.getD_eq_getElem?_getD, List.getElem?_map, List.getElem?_range h]

@[simp] theorem length_blankPage : blankPage.length = pageSize := List.length_replicate

/-- A page that was just replaced reads back (rule R78). -/
theorem page_setPage (m : Memory) (page : Nat) {bytes : List Byte} (hb : bytes.length = pageSize) :
    (m.setPage page bytes).page page = bytes := by
  refine List.ext_getElem (by simp [hb]) fun o h1 h2 => ?_
  have ho : o < pageSize := by omega
  have hk : pageKey (page + 1) 0 = pageKey page 0 + pageSize := by simp only [pageKey, Nat.add_mul]; omega
  have e : pageKey page o = pageKey page 0 + o := by simp [pageKey]
  simp only [Memory.page, List.getElem_map, List.getElem_range]
  rw [read_setPage m page hb, if_pos (by omega), e, Nat.add_sub_cancel_left, List.getD_eq_getElem _ _ h2]

/-- Another page keeps its bytes. -/
theorem page_setPage_ne (m : Memory) {page page' : Nat} (hp : page' ≠ page) {bytes : List Byte}
    (hb : bytes.length = pageSize) : (m.setPage page bytes).page page' = m.page page' := by
  refine List.ext_getElem (by simp) fun o h1 h2 => ?_
  have ho : o < pageSize := by simpa using h1
  simp only [Memory.page, List.getElem_map, List.getElem_range]
  rw [read_setPage m page hb, if_neg]
  simp only [pageKey, pageSize] at *
  omega

end Memory

/-! ## Keys and places -/

theorem pageKey_lt_ramSize (p : Bits3) (o : BitVec 14) : pageKey p.toNat o.toNat < ramSize := by
  have := p.isLt; have := o.isLt
  simp only [pageKey, ramSize, pageSize]; omega

theorem pageKey_lt_romSize (p : BitVec 1) (o : BitVec 14) : pageKey p.toNat o.toNat < romSize := by
  have := p.isLt; have := o.isLt
  simp only [pageKey, romSize, pageSize]; omega

/-- Two places of RAM have one key only if they are one place. -/
theorem pageKey_inj {p p' : Bits3} {o o' : BitVec 14} (h : pageKey p.toNat o.toNat = pageKey p'.toNat o'.toNat) :
    p = p' ∧ o = o' := by
  have := o.isLt; have := o'.isLt
  simp only [pageKey, pageSize] at h
  exact ⟨BitVec.eq_of_toNat_eq (by omega), BitVec.eq_of_toNat_eq (by omega)⟩

theorem ramKey_eq_some {ms : Byte} {a : Word} {k : Nat} (h : ramKey ms a = some k) :
    ∃ p o, route ms a = .ram p o ∧ k = pageKey p.toNat o.toNat := by
  unfold ramKey at h
  split at h
  · cases h
  · next p o e => exact ⟨p, o, e, by simpa using h.symm⟩

/-- Addresses with one RAM key are routed to one place. -/
theorem route_eq_of_ramKey {ms : Byte} {a b : Word} {k : Nat} (ha : ramKey ms a = some k) (hb : ramKey ms b = some k) :
    route ms a = route ms b := by
  obtain ⟨p, o, ea, rfl⟩ := ramKey_eq_some ha
  obtain ⟨p', o', eb, e⟩ := ramKey_eq_some hb
  obtain ⟨rfl, rfl⟩ := pageKey_inj e
  rw [ea, eb]

end Sys2Proof.Machine
end

