-- ==== Sys2Proof/Laws/State.lean ====
section
/-! SUPPORT. One lemma per field per update: what each named update of State leaves in each field. -/

namespace Sys2Proof.Machine.State


/-! ## `setMain` -/

@[simp] theorem setMain_main (s : State) (k : Bank) : (s.setMain k).main = k := rfl
@[simp] theorem setMain_shadow (s : State) (k : Bank) : (s.setMain k).shadow = s.shadow := rfl
@[simp] theorem setMain_ix (s : State) (k : Bank) : (s.setMain k).ix = s.ix := rfl
@[simp] theorem setMain_iy (s : State) (k : Bank) : (s.setMain k).iy = s.iy := rfl
@[simp] theorem setMain_sp (s : State) (k : Bank) : (s.setMain k).sp = s.sp := rfl
@[simp] theorem setMain_pc (s : State) (k : Bank) : (s.setMain k).pc = s.pc := rfl
@[simp] theorem setMain_i (s : State) (k : Bank) : (s.setMain k).i = s.i := rfl
@[simp] theorem setMain_r (s : State) (k : Bank) : (s.setMain k).r = s.r := rfl
@[simp] theorem setMain_iff1 (s : State) (k : Bank) : (s.setMain k).iff1 = s.iff1 := rfl
@[simp] theorem setMain_iff2 (s : State) (k : Bank) : (s.setMain k).iff2 = s.iff2 := rfl
@[simp] theorem setMain_im (s : State) (k : Bank) : (s.setMain k).im = s.im := rfl
@[simp] theorem setMain_halt (s : State) (k : Bank) : (s.setMain k).halt = s.halt := rfl
@[simp] theorem setMain_eiDelay (s : State) (k : Bank) : (s.setMain k).eiDelay = s.eiDelay := rfl
@[simp] theorem setMain_intPending (s : State) (k : Bank) : (s.setMain k).intPending = s.intPending := rfl
@[simp] theorem setMain_nmiPending (s : State) (k : Bank) : (s.setMain k).nmiPending = s.nmiPending := rfl
@[simp] theorem setMain_memorySelect (s : State) (k : Bank) : (s.setMain k).memorySelect = s.memorySelect := rfl
@[simp] theorem setMain_is128 (s : State) (k : Bank) : (s.setMain k).is128 = s.is128 := rfl
@[simp] theorem setMain_t (s : State) (k : Bank) : (s.setMain k).t = s.t := rfl
@[simp] theorem setMain_border (s : State) (k : Bank) : (s.setMain k).border = s.border := rfl
@[simp] theorem setMain_ram (s : State) (k : Bank) : (s.setMain k).ram = s.ram := rfl
@[simp] theorem setMain_rom (s : State) (k : Bank) : (s.setMain k).rom = s.rom := rfl
@[simp] theorem setMain_params (s : State) (k : Bank) : (s.setMain k).params = s.params := rfl
@[simp] theorem setMain_portAnswers (s : State) (k : Bank) : (s.setMain k).portAnswers = s.portAnswers := rfl
@[simp] theorem setMain_portReads (s : State) (k : Bank) : (s.setMain k).portReads = s.portReads := rfl
@[simp] theorem setMain_busAnswers (s : State) (k : Bank) : (s.setMain k).busAnswers = s.busAnswers := rfl
@[simp] theorem setMain_busReads (s : State) (k : Bank) : (s.setMain k).busReads = s.busReads := rfl
@[simp] theorem setMain_trace (s : State) (k : Bank) : (s.setMain k).trace = s.trace := rfl
@[simp] theorem setMain_memRead (s : State) (k : Bank) (x : Word) : (s.setMain k).memRead x = s.memRead x := rfl

/-! ## `setA` -/

@[simp] theorem setA_main (s : State) (v : Byte) : (s.setA v).main = { s.main with a := v } := rfl
@[simp] theorem setA_shadow (s : State) (v : Byte) : (s.setA v).shadow = s.shadow := rfl
@[simp] theorem setA_ix (s : State) (v : Byte) : (s.setA v).ix = s.ix := rfl
@[simp] theorem setA_iy (s : State) (v : Byte) : (s.setA v).iy = s.iy := rfl
@[simp] theorem setA_sp (s : State) (v : Byte) : (s.setA v).sp = s.sp := rfl
@[simp] theorem setA_pc (s : State) (v : Byte) : (s.setA v).pc = s.pc := rfl
@[simp] theorem setA_i (s : State) (v : Byte) : (s.setA v).i = s.i := rfl
@[simp] theorem setA_r (s : State) (v : Byte) : (s.setA v).r = s.r := rfl
@[simp] theorem setA_iff1 (s : State) (v : Byte) : (s.setA v).iff1 = s.iff1 := rfl
@[simp] theorem setA_iff2 (s : State) (v : Byte) : (s.setA v).iff2 = s.iff2 := rfl
@[simp] theorem setA_im (s : State) (v : Byte) : (s.setA v).im = s.im := rfl
@[simp] theorem setA_halt (s : State) (v : Byte) : (s.setA v).halt = s.halt := rfl
@[simp] theorem setA_eiDelay (s : State) (v : Byte) : (s.setA v).eiDelay = s.eiDelay := rfl
@[simp] theorem setA_intPending (s : State) (v : Byte) : (s.setA v).intPending = s.intPending := rfl
@[simp] theorem setA_nmiPending (s : State) (v : Byte) : (s.setA v).nmiPending = s.nmiPending := rfl
@[simp] theorem setA_memorySelect (s : State) (v : Byte) : (s.setA v).memorySelect = s.memorySelect := rfl
@[simp] theorem setA_is128 (s : State) (v : Byte) : (s.setA v).is128 = s.is128 := rfl
@[simp] theorem setA_t (s : State) (v : Byte) : (s.setA v).t = s.t := rfl
@[simp] theorem setA_border (s : State) (v : Byte) : (s.setA v).border = s.border := rfl
@[simp] theorem setA_ram (s : State) (v : Byte) : (s.setA v).ram = s.ram := rfl
@[simp] theorem setA_rom (s : State) (v : Byte) : (s.setA v).rom = s.rom := rfl
@[simp] theorem setA_params (s : State) (v : Byte) : (s.setA v).params = s.params := rfl
@[simp] theorem setA_portAnswers (s : State) (v : Byte) : (s.setA v).portAnswers = s.portAnswers := rfl
@[simp] theorem setA_portReads (s : State) (v : Byte) : (s.setA v).portReads = s.portReads := rfl
@[simp] theorem setA_busAnswers (s : State) (v : Byte) : (s.setA v).busAnswers = s.busAnswers := rfl
@[simp] theorem setA_busReads (s : State) (v : Byte) : (s.setA v).busReads = s.busReads := rfl
@[simp] theorem setA_trace (s : State) (v : Byte) : (s.setA v).trace = s.trace := rfl
@[simp] theorem setA_memRead (s : State) (v : Byte) (x : Word) : (s.setA v).memRead x = s.memRead x := rfl

/-! ## `setF` -/

@[simp] theorem setF_main (s : State) (v : Byte) : (s.setF v).main = { s.main with f := v } := rfl
@[simp] theorem setF_shadow (s : State) (v : Byte) : (s.setF v).shadow = s.shadow := rfl
@[simp] theorem setF_ix (s : State) (v : Byte) : (s.setF v).ix = s.ix := rfl
@[simp] theorem setF_iy (s : State) (v : Byte) : (s.setF v).iy = s.iy := rfl
@[simp] theorem setF_sp (s : State) (v : Byte) : (s.setF v).sp = s.sp := rfl
@[simp] theorem setF_pc (s : State) (v : Byte) : (s.setF v).pc = s.pc := rfl
@[simp] theorem setF_i (s : State) (v : Byte) : (s.setF v).i = s.i := rfl
@[simp] theorem setF_r (s : State) (v : Byte) : (s.setF v).r = s.r := rfl
@[simp] theorem setF_iff1 (s : State) (v : Byte) : (s.setF v).iff1 = s.iff1 := rfl
@[simp] theorem setF_iff2 (s : State) (v : Byte) : (s.setF v).iff2 = s.iff2 := rfl
@[simp] theorem setF_im (s : State) (v : Byte) : (s.setF v).im = s.im := rfl
@[simp] theorem setF_halt (s : State) (v : Byte) : (s.setF v).halt = s.halt := rfl
@[simp] theorem setF_eiDelay (s : State) (v : Byte) : (s.setF v).eiDelay = s.eiDelay := rfl
@[simp] theorem setF_intPending (s : State) (v : Byte) : (s.setF v).intPending = s.intPending := rfl
@[simp] theorem setF_nmiPending (s : State) (v : Byte) : (s.setF v).nmiPending = s.nmiPending := rfl
@[simp] theorem setF_memorySelect (s : State) (v : Byte) : (s.setF v).memorySelect = s.memorySelect := rfl
@[simp] theorem setF_is128 (s : State) (v : Byte) : (s.setF v).is128 = s.is128 := rfl
@[simp] theorem setF_t (s : State) (v : Byte) : (s.setF v).t = s.t := rfl
@[simp] theorem setF_border (s : State) (v : Byte) : (s.setF v).border = s.border := rfl
@[simp] theorem setF_ram (s : State) (v : Byte) : (s.setF v).ram = s.ram := rfl
@[simp] theorem setF_rom (s : State) (v : Byte) : (s.setF v).rom = s.rom := rfl
@[simp] theorem setF_params (s : State) (v : Byte) : (s.setF v).params = s.params := rfl
@[simp] theorem setF_portAnswers (s : State) (v : Byte) : (s.setF v).portAnswers = s.portAnswers := rfl
@[simp] theorem setF_portReads (s : State) (v : Byte) : (s.setF v).portReads = s.portReads := rfl
@[simp] theorem setF_busAnswers (s : State) (v : Byte) : (s.setF v).busAnswers = s.busAnswers := rfl
@[simp] theorem setF_busReads (s : State) (v : Byte) : (s.setF v).busReads = s.busReads := rfl
@[simp] theorem setF_trace (s : State) (v : Byte) : (s.setF v).trace = s.trace := rfl
@[simp] theorem setF_memRead (s : State) (v : Byte) (x : Word) : (s.setF v).memRead x = s.memRead x := rfl

/-! ## `setB` -/

@[simp] theorem setB_main (s : State) (v : Byte) : (s.setB v).main = { s.main with b := v } := rfl
@[simp] theorem setB_shadow (s : State) (v : Byte) : (s.setB v).shadow = s.shadow := rfl
@[simp] theorem setB_ix (s : State) (v : Byte) : (s.setB v).ix = s.ix := rfl
@[simp] theorem setB_iy (s : State) (v : Byte) : (s.setB v).iy = s.iy := rfl
@[simp] theorem setB_sp (s : State) (v : Byte) : (s.setB v).sp = s.sp := rfl
@[simp] theorem setB_pc (s : State) (v : Byte) : (s.setB v).pc = s.pc := rfl
@[simp] theorem setB_i (s : State) (v : Byte) : (s.setB v).i = s.i := rfl
@[simp] theorem setB_r (s : State) (v : Byte) : (s.setB v).r = s.r := rfl
@[simp] theorem setB_iff1 (s : State) (v : Byte) : (s.setB v).iff1 = s.iff1 := rfl
@[simp] theorem setB_iff2 (s : State) (v : Byte) : (s.setB v).iff2 = s.iff2 := rfl
@[simp] theorem setB_im (s : State) (v : Byte) : (s.setB v).im = s.im := rfl
@[simp] theorem setB_halt (s : State) (v : Byte) : (s.setB v).halt = s.halt := rfl
@[simp] theorem setB_eiDelay (s : State) (v : Byte) : (s.setB v).eiDelay = s.eiDelay := rfl
@[simp] theorem setB_intPending (s : State) (v : Byte) : (s.setB v).intPending = s.intPending := rfl
@[simp] theorem setB_nmiPending (s : State) (v : Byte) : (s.setB v).nmiPending = s.nmiPending := rfl
@[simp] theorem setB_memorySelect (s : State) (v : Byte) : (s.setB v).memorySelect = s.memorySelect := rfl
@[simp] theorem setB_is128 (s : State) (v : Byte) : (s.setB v).is128 = s.is128 := rfl
@[simp] theorem setB_t (s : State) (v : Byte) : (s.setB v).t = s.t := rfl
@[simp] theorem setB_border (s : State) (v : Byte) : (s.setB v).border = s.border := rfl
@[simp] theorem setB_ram (s : State) (v : Byte) : (s.setB v).ram = s.ram := rfl
@[simp] theorem setB_rom (s : State) (v : Byte) : (s.setB v).rom = s.rom := rfl
@[simp] theorem setB_params (s : State) (v : Byte) : (s.setB v).params = s.params := rfl
@[simp] theorem setB_portAnswers (s : State) (v : Byte) : (s.setB v).portAnswers = s.portAnswers := rfl
@[simp] theorem setB_portReads (s : State) (v : Byte) : (s.setB v).portReads = s.portReads := rfl
@[simp] theorem setB_busAnswers (s : State) (v : Byte) : (s.setB v).busAnswers = s.busAnswers := rfl
@[simp] theorem setB_busReads (s : State) (v : Byte) : (s.setB v).busReads = s.busReads := rfl
@[simp] theorem setB_trace (s : State) (v : Byte) : (s.setB v).trace = s.trace := rfl
@[simp] theorem setB_memRead (s : State) (v : Byte) (x : Word) : (s.setB v).memRead x = s.memRead x := rfl

/-! ## `setBC` -/

@[simp] theorem setBC_main (s : State) (w : Word) : (s.setBC w).main = { s.main with b := hi8 w, c := lo8 w } := rfl
@[simp] theorem setBC_shadow (s : State) (w : Word) : (s.setBC w).shadow = s.shadow := rfl
@[simp] theorem setBC_ix (s : State) (w : Word) : (s.setBC w).ix = s.ix := rfl
@[simp] theorem setBC_iy (s : State) (w : Word) : (s.setBC w).iy = s.iy := rfl
@[simp] theorem setBC_sp (s : State) (w : Word) : (s.setBC w).sp = s.sp := rfl
@[simp] theorem setBC_pc (s : State) (w : Word) : (s.setBC w).pc = s.pc := rfl
@[simp] theorem setBC_i (s : State) (w : Word) : (s.setBC w).i = s.i := rfl
@[simp] theorem setBC_r (s : State) (w : Word) : (s.setBC w).r = s.r := rfl
@[simp] theorem setBC_iff1 (s : State) (w : Word) : (s.setBC w).iff1 = s.iff1 := rfl
@[simp] theorem setBC_iff2 (s : State) (w : Word) : (s.setBC w).iff2 = s.iff2 := rfl
@[simp] theorem setBC_im (s : State) (w : Word) : (s.setBC w).im = s.im := rfl
@[simp] theorem setBC_halt (s : State) (w : Word) : (s.setBC w).halt = s.halt := rfl
@[simp] theorem setBC_eiDelay (s : State) (w : Word) : (s.setBC w).eiDelay = s.eiDelay := rfl
@[simp] theorem setBC_intPending (s : State) (w : Word) : (s.setBC w).intPending = s.intPending := rfl
@[simp] theorem setBC_nmiPending (s : State) (w : Word) : (s.setBC w).nmiPending = s.nmiPending := rfl
@[simp] theorem setBC_memorySelect (s : State) (w : Word) : (s.setBC w).memorySelect = s.memorySelect := rfl
@[simp] theorem setBC_is128 (s : State) (w : Word) : (s.setBC w).is128 = s.is128 := rfl
@[simp] theorem setBC_t (s : State) (w : Word) : (s.setBC w).t = s.t := rfl
@[simp] theorem setBC_border (s : State) (w : Word) : (s.setBC w).border = s.border := rfl
@[simp] theorem setBC_ram (s : State) (w : Word) : (s.setBC w).ram = s.ram := rfl
@[simp] theorem setBC_rom (s : State) (w : Word) : (s.setBC w).rom = s.rom := rfl
@[simp] theorem setBC_params (s : State) (w : Word) : (s.setBC w).params = s.params := rfl
@[simp] theorem setBC_portAnswers (s : State) (w : Word) : (s.setBC w).portAnswers = s.portAnswers := rfl
@[simp] theorem setBC_portReads (s : State) (w : Word) : (s.setBC w).portReads = s.portReads := rfl
@[simp] theorem setBC_busAnswers (s : State) (w : Word) : (s.setBC w).busAnswers = s.busAnswers := rfl
@[simp] theorem setBC_busReads (s : State) (w : Word) : (s.setBC w).busReads = s.busReads := rfl
@[simp] theorem setBC_trace (s : State) (w : Word) : (s.setBC w).trace = s.trace := rfl
@[simp] theorem setBC_memRead (s : State) (w : Word) (x : Word) : (s.setBC w).memRead x = s.memRead x := rfl

/-! ## `setDE` -/

@[simp] theorem setDE_main (s : State) (w : Word) : (s.setDE w).main = { s.main with d := hi8 w, e := lo8 w } := rfl
@[simp] theorem setDE_shadow (s : State) (w : Word) : (s.setDE w).shadow = s.shadow := rfl
@[simp] theorem setDE_ix (s : State) (w : Word) : (s.setDE w).ix = s.ix := rfl
@[simp] theorem setDE_iy (s : State) (w : Word) : (s.setDE w).iy = s.iy := rfl
@[simp] theorem setDE_sp (s : State) (w : Word) : (s.setDE w).sp = s.sp := rfl
@[simp] theorem setDE_pc (s : State) (w : Word) : (s.setDE w).pc = s.pc := rfl
@[simp] theorem setDE_i (s : State) (w : Word) : (s.setDE w).i = s.i := rfl
@[simp] theorem setDE_r (s : State) (w : Word) : (s.setDE w).r = s.r := rfl
@[simp] theorem setDE_iff1 (s : State) (w : Word) : (s.setDE w).iff1 = s.iff1 := rfl
@[simp] theorem setDE_iff2 (s : State) (w : Word) : (s.setDE w).iff2 = s.iff2 := rfl
@[simp] theorem setDE_im (s : State) (w : Word) : (s.setDE w).im = s.im := rfl
@[simp] theorem setDE_halt (s : State) (w : Word) : (s.setDE w).halt = s.halt := rfl
@[simp] theorem setDE_eiDelay (s : State) (w : Word) : (s.setDE w).eiDelay = s.eiDelay := rfl
@[simp] theorem setDE_intPending (s : State) (w : Word) : (s.setDE w).intPending = s.intPending := rfl
@[simp] theorem setDE_nmiPending (s : State) (w : Word) : (s.setDE w).nmiPending = s.nmiPending := rfl
@[simp] theorem setDE_memorySelect (s : State) (w : Word) : (s.setDE w).memorySelect = s.memorySelect := rfl
@[simp] theorem setDE_is128 (s : State) (w : Word) : (s.setDE w).is128 = s.is128 := rfl
@[simp] theorem setDE_t (s : State) (w : Word) : (s.setDE w).t = s.t := rfl
@[simp] theorem setDE_border (s : State) (w : Word) : (s.setDE w).border = s.border := rfl
@[simp] theorem setDE_ram (s : State) (w : Word) : (s.setDE w).ram = s.ram := rfl
@[simp] theorem setDE_rom (s : State) (w : Word) : (s.setDE w).rom = s.rom := rfl
@[simp] theorem setDE_params (s : State) (w : Word) : (s.setDE w).params = s.params := rfl
@[simp] theorem setDE_portAnswers (s : State) (w : Word) : (s.setDE w).portAnswers = s.portAnswers := rfl
@[simp] theorem setDE_portReads (s : State) (w : Word) : (s.setDE w).portReads = s.portReads := rfl
@[simp] theorem setDE_busAnswers (s : State) (w : Word) : (s.setDE w).busAnswers = s.busAnswers := rfl
@[simp] theorem setDE_busReads (s : State) (w : Word) : (s.setDE w).busReads = s.busReads := rfl
@[simp] theorem setDE_trace (s : State) (w : Word) : (s.setDE w).trace = s.trace := rfl
@[simp] theorem setDE_memRead (s : State) (w : Word) (x : Word) : (s.setDE w).memRead x = s.memRead x := rfl

/-! ## `setHL` -/

@[simp] theorem setHL_main (s : State) (w : Word) : (s.setHL w).main = { s.main with h := hi8 w, l := lo8 w } := rfl
@[simp] theorem setHL_shadow (s : State) (w : Word) : (s.setHL w).shadow = s.shadow := rfl
@[simp] theorem setHL_ix (s : State) (w : Word) : (s.setHL w).ix = s.ix := rfl
@[simp] theorem setHL_iy (s : State) (w : Word) : (s.setHL w).iy = s.iy := rfl
@[simp] theorem setHL_sp (s : State) (w : Word) : (s.setHL w).sp = s.sp := rfl
@[simp] theorem setHL_pc (s : State) (w : Word) : (s.setHL w).pc = s.pc := rfl
@[simp] theorem setHL_i (s : State) (w : Word) : (s.setHL w).i = s.i := rfl
@[simp] theorem setHL_r (s : State) (w : Word) : (s.setHL w).r = s.r := rfl
@[simp] theorem setHL_iff1 (s : State) (w : Word) : (s.setHL w).iff1 = s.iff1 := rfl
@[simp] theorem setHL_iff2 (s : State) (w : Word) : (s.setHL w).iff2 = s.iff2 := rfl
@[simp] theorem setHL_im (s : State) (w : Word) : (s.setHL w).im = s.im := rfl
@[simp] theorem setHL_halt (s : State) (w : Word) : (s.setHL w).halt = s.halt := rfl
@[simp] theorem setHL_eiDelay (s : State) (w : Word) : (s.setHL w).eiDelay = s.eiDelay := rfl
@[simp] theorem setHL_intPending (s : State) (w : Word) : (s.setHL w).intPending = s.intPending := rfl
@[simp] theorem setHL_nmiPending (s : State) (w : Word) : (s.setHL w).nmiPending = s.nmiPending := rfl
@[simp] theorem setHL_memorySelect (s : State) (w : Word) : (s.setHL w).memorySelect = s.memorySelect := rfl
@[simp] theorem setHL_is128 (s : State) (w : Word) : (s.setHL w).is128 = s.is128 := rfl
@[simp] theorem setHL_t (s : State) (w : Word) : (s.setHL w).t = s.t := rfl
@[simp] theorem setHL_border (s : State) (w : Word) : (s.setHL w).border = s.border := rfl
@[simp] theorem setHL_ram (s : State) (w : Word) : (s.setHL w).ram = s.ram := rfl
@[simp] theorem setHL_rom (s : State) (w : Word) : (s.setHL w).rom = s.rom := rfl
@[simp] theorem setHL_params (s : State) (w : Word) : (s.setHL w).params = s.params := rfl
@[simp] theorem setHL_portAnswers (s : State) (w : Word) : (s.setHL w).portAnswers = s.portAnswers := rfl
@[simp] theorem setHL_portReads (s : State) (w : Word) : (s.setHL w).portReads = s.portReads := rfl
@[simp] theorem setHL_busAnswers (s : State) (w : Word) : (s.setHL w).busAnswers = s.busAnswers := rfl
@[simp] theorem setHL_busReads (s : State) (w : Word) : (s.setHL w).busReads = s.busReads := rfl
@[simp] theorem setHL_trace (s : State) (w : Word) : (s.setHL w).trace = s.trace := rfl
@[simp] theorem setHL_memRead (s : State) (w : Word) (x : Word) : (s.setHL w).memRead x = s.memRead x := rfl

/-! ## `setSP` -/

@[simp] theorem setSP_main (s : State) (w : Word) : (s.setSP w).main = s.main := rfl
@[simp] theorem setSP_shadow (s : State) (w : Word) : (s.setSP w).shadow = s.shadow := rfl
@[simp] theorem setSP_ix (s : State) (w : Word) : (s.setSP w).ix = s.ix := rfl
@[simp] theorem setSP_iy (s : State) (w : Word) : (s.setSP w).iy = s.iy := rfl
@[simp] theorem setSP_sp (s : State) (w : Word) : (s.setSP w).sp = w := rfl
@[simp] theorem setSP_pc (s : State) (w : Word) : (s.setSP w).pc = s.pc := rfl
@[simp] theorem setSP_i (s : State) (w : Word) : (s.setSP w).i = s.i := rfl
@[simp] theorem setSP_r (s : State) (w : Word) : (s.setSP w).r = s.r := rfl
@[simp] theorem setSP_iff1 (s : State) (w : Word) : (s.setSP w).iff1 = s.iff1 := rfl
@[simp] theorem setSP_iff2 (s : State) (w : Word) : (s.setSP w).iff2 = s.iff2 := rfl
@[simp] theorem setSP_im (s : State) (w : Word) : (s.setSP w).im = s.im := rfl
@[simp] theorem setSP_halt (s : State) (w : Word) : (s.setSP w).halt = s.halt := rfl
@[simp] theorem setSP_eiDelay (s : State) (w : Word) : (s.setSP w).eiDelay = s.eiDelay := rfl
@[simp] theorem setSP_intPending (s : State) (w : Word) : (s.setSP w).intPending = s.intPending := rfl
@[simp] theorem setSP_nmiPending (s : State) (w : Word) : (s.setSP w).nmiPending = s.nmiPending := rfl
@[simp] theorem setSP_memorySelect (s : State) (w : Word) : (s.setSP w).memorySelect = s.memorySelect := rfl
@[simp] theorem setSP_is128 (s : State) (w : Word) : (s.setSP w).is128 = s.is128 := rfl
@[simp] theorem setSP_t (s : State) (w : Word) : (s.setSP w).t = s.t := rfl
@[simp] theorem setSP_border (s : State) (w : Word) : (s.setSP w).border = s.border := rfl
@[simp] theorem setSP_ram (s : State) (w : Word) : (s.setSP w).ram = s.ram := rfl
@[simp] theorem setSP_rom (s : State) (w : Word) : (s.setSP w).rom = s.rom := rfl
@[simp] theorem setSP_params (s : State) (w : Word) : (s.setSP w).params = s.params := rfl
@[simp] theorem setSP_portAnswers (s : State) (w : Word) : (s.setSP w).portAnswers = s.portAnswers := rfl
@[simp] theorem setSP_portReads (s : State) (w : Word) : (s.setSP w).portReads = s.portReads := rfl
@[simp] theorem setSP_busAnswers (s : State) (w : Word) : (s.setSP w).busAnswers = s.busAnswers := rfl
@[simp] theorem setSP_busReads (s : State) (w : Word) : (s.setSP w).busReads = s.busReads := rfl
@[simp] theorem setSP_trace (s : State) (w : Word) : (s.setSP w).trace = s.trace := rfl
@[simp] theorem setSP_memRead (s : State) (w : Word) (x : Word) : (s.setSP w).memRead x = s.memRead x := rfl

/-! ## `setPC` -/

@[simp] theorem setPC_main (s : State) (w : Word) : (s.setPC w).main = s.main := rfl
@[simp] theorem setPC_shadow (s : State) (w : Word) : (s.setPC w).shadow = s.shadow := rfl
@[simp] theorem setPC_ix (s : State) (w : Word) : (s.setPC w).ix = s.ix := rfl
@[simp] theorem setPC_iy (s : State) (w : Word) : (s.setPC w).iy = s.iy := rfl
@[simp] theorem setPC_sp (s : State) (w : Word) : (s.setPC w).sp = s.sp := rfl
@[simp] theorem setPC_pc (s : State) (w : Word) : (s.setPC w).pc = w := rfl
@[simp] theorem setPC_i (s : State) (w : Word) : (s.setPC w).i = s.i := rfl
@[simp] theorem setPC_r (s : State) (w : Word) : (s.setPC w).r = s.r := rfl
@[simp] theorem setPC_iff1 (s : State) (w : Word) : (s.setPC w).iff1 = s.iff1 := rfl
@[simp] theorem setPC_iff2 (s : State) (w : Word) : (s.setPC w).iff2 = s.iff2 := rfl
@[simp] theorem setPC_im (s : State) (w : Word) : (s.setPC w).im = s.im := rfl
@[simp] theorem setPC_halt (s : State) (w : Word) : (s.setPC w).halt = s.halt := rfl
@[simp] theorem setPC_eiDelay (s : State) (w : Word) : (s.setPC w).eiDelay = s.eiDelay := rfl
@[simp] theorem setPC_intPending (s : State) (w : Word) : (s.setPC w).intPending = s.intPending := rfl
@[simp] theorem setPC_nmiPending (s : State) (w : Word) : (s.setPC w).nmiPending = s.nmiPending := rfl
@[simp] theorem setPC_memorySelect (s : State) (w : Word) : (s.setPC w).memorySelect = s.memorySelect := rfl
@[simp] theorem setPC_is128 (s : State) (w : Word) : (s.setPC w).is128 = s.is128 := rfl
@[simp] theorem setPC_t (s : State) (w : Word) : (s.setPC w).t = s.t := rfl
@[simp] theorem setPC_border (s : State) (w : Word) : (s.setPC w).border = s.border := rfl
@[simp] theorem setPC_ram (s : State) (w : Word) : (s.setPC w).ram = s.ram := rfl
@[simp] theorem setPC_rom (s : State) (w : Word) : (s.setPC w).rom = s.rom := rfl
@[simp] theorem setPC_params (s : State) (w : Word) : (s.setPC w).params = s.params := rfl
@[simp] theorem setPC_portAnswers (s : State) (w : Word) : (s.setPC w).portAnswers = s.portAnswers := rfl
@[simp] theorem setPC_portReads (s : State) (w : Word) : (s.setPC w).portReads = s.portReads := rfl
@[simp] theorem setPC_busAnswers (s : State) (w : Word) : (s.setPC w).busAnswers = s.busAnswers := rfl
@[simp] theorem setPC_busReads (s : State) (w : Word) : (s.setPC w).busReads = s.busReads := rfl
@[simp] theorem setPC_trace (s : State) (w : Word) : (s.setPC w).trace = s.trace := rfl
@[simp] theorem setPC_memRead (s : State) (w : Word) (x : Word) : (s.setPC w).memRead x = s.memRead x := rfl

/-! ## `setI` -/

@[simp] theorem setI_main (s : State) (v : Byte) : (s.setI v).main = s.main := rfl
@[simp] theorem setI_shadow (s : State) (v : Byte) : (s.setI v).shadow = s.shadow := rfl
@[simp] theorem setI_ix (s : State) (v : Byte) : (s.setI v).ix = s.ix := rfl
@[simp] theorem setI_iy (s : State) (v : Byte) : (s.setI v).iy = s.iy := rfl
@[simp] theorem setI_sp (s : State) (v : Byte) : (s.setI v).sp = s.sp := rfl
@[simp] theorem setI_pc (s : State) (v : Byte) : (s.setI v).pc = s.pc := rfl
@[simp] theorem setI_i (s : State) (v : Byte) : (s.setI v).i = v := rfl
@[simp] theorem setI_r (s : State) (v : Byte) : (s.setI v).r = s.r := rfl
@[simp] theorem setI_iff1 (s : State) (v : Byte) : (s.setI v).iff1 = s.iff1 := rfl
@[simp] theorem setI_iff2 (s : State) (v : Byte) : (s.setI v).iff2 = s.iff2 := rfl
@[simp] theorem setI_im (s : State) (v : Byte) : (s.setI v).im = s.im := rfl
@[simp] theorem setI_halt (s : State) (v : Byte) : (s.setI v).halt = s.halt := rfl
@[simp] theorem setI_eiDelay (s : State) (v : Byte) : (s.setI v).eiDelay = s.eiDelay := rfl
@[simp] theorem setI_intPending (s : State) (v : Byte) : (s.setI v).intPending = s.intPending := rfl
@[simp] theorem setI_nmiPending (s : State) (v : Byte) : (s.setI v).nmiPending = s.nmiPending := rfl
@[simp] theorem setI_memorySelect (s : State) (v : Byte) : (s.setI v).memorySelect = s.memorySelect := rfl
@[simp] theorem setI_is128 (s : State) (v : Byte) : (s.setI v).is128 = s.is128 := rfl
@[simp] theorem setI_t (s : State) (v : Byte) : (s.setI v).t = s.t := rfl
@[simp] theorem setI_border (s : State) (v : Byte) : (s.setI v).border = s.border := rfl
@[simp] theorem setI_ram (s : State) (v : Byte) : (s.setI v).ram = s.ram := rfl
@[simp] theorem setI_rom (s : State) (v : Byte) : (s.setI v).rom = s.rom := rfl
@[simp] theorem setI_params (s : State) (v : Byte) : (s.setI v).params = s.params := rfl
@[simp] theorem setI_portAnswers (s : State) (v : Byte) : (s.setI v).portAnswers = s.portAnswers := rfl
@[simp] theorem setI_portReads (s : State) (v : Byte) : (s.setI v).portReads = s.portReads := rfl
@[simp] theorem setI_busAnswers (s : State) (v : Byte) : (s.setI v).busAnswers = s.busAnswers := rfl
@[simp] theorem setI_busReads (s : State) (v : Byte) : (s.setI v).busReads = s.busReads := rfl
@[simp] theorem setI_trace (s : State) (v : Byte) : (s.setI v).trace = s.trace := rfl
@[simp] theorem setI_memRead (s : State) (v : Byte) (x : Word) : (s.setI v).memRead x = s.memRead x := rfl

/-! ## `setR` -/

@[simp] theorem setR_main (s : State) (v : Byte) : (s.setR v).main = s.main := rfl
@[simp] theorem setR_shadow (s : State) (v : Byte) : (s.setR v).shadow = s.shadow := rfl
@[simp] theorem setR_ix (s : State) (v : Byte) : (s.setR v).ix = s.ix := rfl
@[simp] theorem setR_iy (s : State) (v : Byte) : (s.setR v).iy = s.iy := rfl
@[simp] theorem setR_sp (s : State) (v : Byte) : (s.setR v).sp = s.sp := rfl
@[simp] theorem setR_pc (s : State) (v : Byte) : (s.setR v).pc = s.pc := rfl
@[simp] theorem setR_i (s : State) (v : Byte) : (s.setR v).i = s.i := rfl
@[simp] theorem setR_r (s : State) (v : Byte) : (s.setR v).r = v := rfl
@[simp] theorem setR_iff1 (s : State) (v : Byte) : (s.setR v).iff1 = s.iff1 := rfl
@[simp] theorem setR_iff2 (s : State) (v : Byte) : (s.setR v).iff2 = s.iff2 := rfl
@[simp] theorem setR_im (s : State) (v : Byte) : (s.setR v).im = s.im := rfl
@[simp] theorem setR_halt (s : State) (v : Byte) : (s.setR v).halt = s.halt := rfl
@[simp] theorem setR_eiDelay (s : State) (v : Byte) : (s.setR v).eiDelay = s.eiDelay := rfl
@[simp] theorem setR_intPending (s : State) (v : Byte) : (s.setR v).intPending = s.intPending := rfl
@[simp] theorem setR_nmiPending (s : State) (v : Byte) : (s.setR v).nmiPending = s.nmiPending := rfl
@[simp] theorem setR_memorySelect (s : State) (v : Byte) : (s.setR v).memorySelect = s.memorySelect := rfl
@[simp] theorem setR_is128 (s : State) (v : Byte) : (s.setR v).is128 = s.is128 := rfl
@[simp] theorem setR_t (s : State) (v : Byte) : (s.setR v).t = s.t := rfl
@[simp] theorem setR_border (s : State) (v : Byte) : (s.setR v).border = s.border := rfl
@[simp] theorem setR_ram (s : State) (v : Byte) : (s.setR v).ram = s.ram := rfl
@[simp] theorem setR_rom (s : State) (v : Byte) : (s.setR v).rom = s.rom := rfl
@[simp] theorem setR_params (s : State) (v : Byte) : (s.setR v).params = s.params := rfl
@[simp] theorem setR_portAnswers (s : State) (v : Byte) : (s.setR v).portAnswers = s.portAnswers := rfl
@[simp] theorem setR_portReads (s : State) (v : Byte) : (s.setR v).portReads = s.portReads := rfl
@[simp] theorem setR_busAnswers (s : State) (v : Byte) : (s.setR v).busAnswers = s.busAnswers := rfl
@[simp] theorem setR_busReads (s : State) (v : Byte) : (s.setR v).busReads = s.busReads := rfl
@[simp] theorem setR_trace (s : State) (v : Byte) : (s.setR v).trace = s.trace := rfl
@[simp] theorem setR_memRead (s : State) (v : Byte) (x : Word) : (s.setR v).memRead x = s.memRead x := rfl

/-! ## `setIM` -/

@[simp] theorem setIM_main (s : State) (m : IntMode) : (s.setIM m).main = s.main := rfl
@[simp] theorem setIM_shadow (s : State) (m : IntMode) : (s.setIM m).shadow = s.shadow := rfl
@[simp] theorem setIM_ix (s : State) (m : IntMode) : (s.setIM m).ix = s.ix := rfl
@[simp] theorem setIM_iy (s : State) (m : IntMode) : (s.setIM m).iy = s.iy := rfl
@[simp] theorem setIM_sp (s : State) (m : IntMode) : (s.setIM m).sp = s.sp := rfl
@[simp] theorem setIM_pc (s : State) (m : IntMode) : (s.setIM m).pc = s.pc := rfl
@[simp] theorem setIM_i (s : State) (m : IntMode) : (s.setIM m).i = s.i := rfl
@[simp] theorem setIM_r (s : State) (m : IntMode) : (s.setIM m).r = s.r := rfl
@[simp] theorem setIM_iff1 (s : State) (m : IntMode) : (s.setIM m).iff1 = s.iff1 := rfl
@[simp] theorem setIM_iff2 (s : State) (m : IntMode) : (s.setIM m).iff2 = s.iff2 := rfl
@[simp] theorem setIM_im (s : State) (m : IntMode) : (s.setIM m).im = m := rfl
@[simp] theorem setIM_halt (s : State) (m : IntMode) : (s.setIM m).halt = s.halt := rfl
@[simp] theorem setIM_eiDelay (s : State) (m : IntMode) : (s.setIM m).eiDelay = s.eiDelay := rfl
@[simp] theorem setIM_intPending (s : State) (m : IntMode) : (s.setIM m).intPending = s.intPending := rfl
@[simp] theorem setIM_nmiPending (s : State) (m : IntMode) : (s.setIM m).nmiPending = s.nmiPending := rfl
@[simp] theorem setIM_memorySelect (s : State) (m : IntMode) : (s.setIM m).memorySelect = s.memorySelect := rfl
@[simp] theorem setIM_is128 (s : State) (m : IntMode) : (s.setIM m).is128 = s.is128 := rfl
@[simp] theorem setIM_t (s : State) (m : IntMode) : (s.setIM m).t = s.t := rfl
@[simp] theorem setIM_border (s : State) (m : IntMode) : (s.setIM m).border = s.border := rfl
@[simp] theorem setIM_ram (s : State) (m : IntMode) : (s.setIM m).ram = s.ram := rfl
@[simp] theorem setIM_rom (s : State) (m : IntMode) : (s.setIM m).rom = s.rom := rfl
@[simp] theorem setIM_params (s : State) (m : IntMode) : (s.setIM m).params = s.params := rfl
@[simp] theorem setIM_portAnswers (s : State) (m : IntMode) : (s.setIM m).portAnswers = s.portAnswers := rfl
@[simp] theorem setIM_portReads (s : State) (m : IntMode) : (s.setIM m).portReads = s.portReads := rfl
@[simp] theorem setIM_busAnswers (s : State) (m : IntMode) : (s.setIM m).busAnswers = s.busAnswers := rfl
@[simp] theorem setIM_busReads (s : State) (m : IntMode) : (s.setIM m).busReads = s.busReads := rfl
@[simp] theorem setIM_trace (s : State) (m : IntMode) : (s.setIM m).trace = s.trace := rfl
@[simp] theorem setIM_memRead (s : State) (m : IntMode) (x : Word) : (s.setIM m).memRead x = s.memRead x := rfl

/-! ## `setHalt` -/

@[simp] theorem setHalt_main (s : State) (b : Bool) : (s.setHalt b).main = s.main := rfl
@[simp] theorem setHalt_shadow (s : State) (b : Bool) : (s.setHalt b).shadow = s.shadow := rfl
@[simp] theorem setHalt_ix (s : State) (b : Bool) : (s.setHalt b).ix = s.ix := rfl
@[simp] theorem setHalt_iy (s : State) (b : Bool) : (s.setHalt b).iy = s.iy := rfl
@[simp] theorem setHalt_sp (s : State) (b : Bool) : (s.setHalt b).sp = s.sp := rfl
@[simp] theorem setHalt_pc (s : State) (b : Bool) : (s.setHalt b).pc = s.pc := rfl
@[simp] theorem setHalt_i (s : State) (b : Bool) : (s.setHalt b).i = s.i := rfl
@[simp] theorem setHalt_r (s : State) (b : Bool) : (s.setHalt b).r = s.r := rfl
@[simp] theorem setHalt_iff1 (s : State) (b : Bool) : (s.setHalt b).iff1 = s.iff1 := rfl
@[simp] theorem setHalt_iff2 (s : State) (b : Bool) : (s.setHalt b).iff2 = s.iff2 := rfl
@[simp] theorem setHalt_im (s : State) (b : Bool) : (s.setHalt b).im = s.im := rfl
@[simp] theorem setHalt_halt (s : State) (b : Bool) : (s.setHalt b).halt = b := rfl
@[simp] theorem setHalt_eiDelay (s : State) (b : Bool) : (s.setHalt b).eiDelay = s.eiDelay := rfl
@[simp] theorem setHalt_intPending (s : State) (b : Bool) : (s.setHalt b).intPending = s.intPending := rfl
@[simp] theorem setHalt_nmiPending (s : State) (b : Bool) : (s.setHalt b).nmiPending = s.nmiPending := rfl
@[simp] theorem setHalt_memorySelect (s : State) (b : Bool) : (s.setHalt b).memorySelect = s.memorySelect := rfl
@[simp] theorem setHalt_is128 (s : State) (b : Bool) : (s.setHalt b).is128 = s.is128 := rfl
@[simp] theorem setHalt_t (s : State) (b : Bool) : (s.setHalt b).t = s.t := rfl
@[simp] theorem setHalt_border (s : State) (b : Bool) : (s.setHalt b).border = s.border := rfl
@[simp] theorem setHalt_ram (s : State) (b : Bool) : (s.setHalt b).ram = s.ram := rfl
@[simp] theorem setHalt_rom (s : State) (b : Bool) : (s.setHalt b).rom = s.rom := rfl
@[simp] theorem setHalt_params (s : State) (b : Bool) : (s.setHalt b).params = s.params := rfl
@[simp] theorem setHalt_portAnswers (s : State) (b : Bool) : (s.setHalt b).portAnswers = s.portAnswers := rfl
@[simp] theorem setHalt_portReads (s : State) (b : Bool) : (s.setHalt b).portReads = s.portReads := rfl
@[simp] theorem setHalt_busAnswers (s : State) (b : Bool) : (s.setHalt b).busAnswers = s.busAnswers := rfl
@[simp] theorem setHalt_busReads (s : State) (b : Bool) : (s.setHalt b).busReads = s.busReads := rfl
@[simp] theorem setHalt_trace (s : State) (b : Bool) : (s.setHalt b).trace = s.trace := rfl
@[simp] theorem setHalt_memRead (s : State) (b : Bool) (x : Word) : (s.setHalt b).memRead x = s.memRead x := rfl

/-! ## `setEiDelay` -/

@[simp] theorem setEiDelay_main (s : State) (b : Bool) : (s.setEiDelay b).main = s.main := rfl
@[simp] theorem setEiDelay_shadow (s : State) (b : Bool) : (s.setEiDelay b).shadow = s.shadow := rfl
@[simp] theorem setEiDelay_ix (s : State) (b : Bool) : (s.setEiDelay b).ix = s.ix := rfl
@[simp] theorem setEiDelay_iy (s : State) (b : Bool) : (s.setEiDelay b).iy = s.iy := rfl
@[simp] theorem setEiDelay_sp (s : State) (b : Bool) : (s.setEiDelay b).sp = s.sp := rfl
@[simp] theorem setEiDelay_pc (s : State) (b : Bool) : (s.setEiDelay b).pc = s.pc := rfl
@[simp] theorem setEiDelay_i (s : State) (b : Bool) : (s.setEiDelay b).i = s.i := rfl
@[simp] theorem setEiDelay_r (s : State) (b : Bool) : (s.setEiDelay b).r = s.r := rfl
@[simp] theorem setEiDelay_iff1 (s : State) (b : Bool) : (s.setEiDelay b).iff1 = s.iff1 := rfl
@[simp] theorem setEiDelay_iff2 (s : State) (b : Bool) : (s.setEiDelay b).iff2 = s.iff2 := rfl
@[simp] theorem setEiDelay_im (s : State) (b : Bool) : (s.setEiDelay b).im = s.im := rfl
@[simp] theorem setEiDelay_halt (s : State) (b : Bool) : (s.setEiDelay b).halt = s.halt := rfl
@[simp] theorem setEiDelay_eiDelay (s : State) (b : Bool) : (s.setEiDelay b).eiDelay = b := rfl
@[simp] theorem setEiDelay_intPending (s : State) (b : Bool) : (s.setEiDelay b).intPending = s.intPending := rfl
@[simp] theorem setEiDelay_nmiPending (s : State) (b : Bool) : (s.setEiDelay b).nmiPending = s.nmiPending := rfl
@[simp] theorem setEiDelay_memorySelect (s : State) (b : Bool) : (s.setEiDelay b).memorySelect = s.memorySelect := rfl
@[simp] theorem setEiDelay_is128 (s : State) (b : Bool) : (s.setEiDelay b).is128 = s.is128 := rfl
@[simp] theorem setEiDelay_t (s : State) (b : Bool) : (s.setEiDelay b).t = s.t := rfl
@[simp] theorem setEiDelay_border (s : State) (b : Bool) : (s.setEiDelay b).border = s.border := rfl
@[simp] theorem setEiDelay_ram (s : State) (b : Bool) : (s.setEiDelay b).ram = s.ram := rfl
@[simp] theorem setEiDelay_rom (s : State) (b : Bool) : (s.setEiDelay b).rom = s.rom := rfl
@[simp] theorem setEiDelay_params (s : State) (b : Bool) : (s.setEiDelay b).params = s.params := rfl
@[simp] theorem setEiDelay_portAnswers (s : State) (b : Bool) : (s.setEiDelay b).portAnswers = s.portAnswers := rfl
@[simp] theorem setEiDelay_portReads (s : State) (b : Bool) : (s.setEiDelay b).portReads = s.portReads := rfl
@[simp] theorem setEiDelay_busAnswers (s : State) (b : Bool) : (s.setEiDelay b).busAnswers = s.busAnswers := rfl
@[simp] theorem setEiDelay_busReads (s : State) (b : Bool) : (s.setEiDelay b).busReads = s.busReads := rfl
@[simp] theorem setEiDelay_trace (s : State) (b : Bool) : (s.setEiDelay b).trace = s.trace := rfl
@[simp] theorem setEiDelay_memRead (s : State) (b : Bool) (x : Word) : (s.setEiDelay b).memRead x = s.memRead x := rfl

/-! ## `setIFFs` -/

@[simp] theorem setIFFs_main (s : State) (b1 b2 : Bool) : (s.setIFFs b1 b2).main = s.main := rfl
@[simp] theorem setIFFs_shadow (s : State) (b1 b2 : Bool) : (s.setIFFs b1 b2).shadow = s.shadow := rfl
@[simp] theorem setIFFs_ix (s : State) (b1 b2 : Bool) : (s.setIFFs b1 b2).ix = s.ix := rfl
@[simp] theorem setIFFs_iy (s : State) (b1 b2 : Bool) : (s.setIFFs b1 b2).iy = s.iy := rfl
@[simp] theorem setIFFs_sp (s : State) (b1 b2 : Bool) : (s.setIFFs b1 b2).sp = s.sp := rfl
@[simp] theorem setIFFs_pc (s : State) (b1 b2 : Bool) : (s.setIFFs b1 b2).pc = s.pc := rfl
@[simp] theorem setIFFs_i (s : State) (b1 b2 : Bool) : (s.setIFFs b1 b2).i = s.i := rfl
@[simp] theorem setIFFs_r (s : State) (b1 b2 : Bool) : (s.setIFFs b1 b2).r = s.r := rfl
@[simp] theorem setIFFs_iff1 (s : State) (b1 b2 : Bool) : (s.setIFFs b1 b2).iff1 = b1 := rfl
@[simp] theorem setIFFs_iff2 (s : State) (b1 b2 : Bool) : (s.setIFFs b1 b2).iff2 = b2 := rfl
@[simp] theorem setIFFs_im (s : State) (b1 b2 : Bool) : (s.setIFFs b1 b2).im = s.im := rfl
@[simp] theorem setIFFs_halt (s : State) (b1 b2 : Bool) : (s.setIFFs b1 b2).halt = s.halt := rfl
@[simp] theorem setIFFs_eiDelay (s : State) (b1 b2 : Bool) : (s.setIFFs b1 b2).eiDelay = s.eiDelay := rfl
@[simp] theorem setIFFs_intPending (s : State) (b1 b2 : Bool) : (s.setIFFs b1 b2).intPending = s.intPending := rfl
@[simp] theorem setIFFs_nmiPending (s : State) (b1 b2 : Bool) : (s.setIFFs b1 b2).nmiPending = s.nmiPending := rfl
@[simp] theorem setIFFs_memorySelect (s : State) (b1 b2 : Bool) : (s.setIFFs b1 b2).memorySelect = s.memorySelect := rfl
@[simp] theorem setIFFs_is128 (s : State) (b1 b2 : Bool) : (s.setIFFs b1 b2).is128 = s.is128 := rfl
@[simp] theorem setIFFs_t (s : State) (b1 b2 : Bool) : (s.setIFFs b1 b2).t = s.t := rfl
@[simp] theorem setIFFs_border (s : State) (b1 b2 : Bool) : (s.setIFFs b1 b2).border = s.border := rfl
@[simp] theorem setIFFs_ram (s : State) (b1 b2 : Bool) : (s.setIFFs b1 b2).ram = s.ram := rfl
@[simp] theorem setIFFs_rom (s : State) (b1 b2 : Bool) : (s.setIFFs b1 b2).rom = s.rom := rfl
@[simp] theorem setIFFs_params (s : State) (b1 b2 : Bool) : (s.setIFFs b1 b2).params = s.params := rfl
@[simp] theorem setIFFs_portAnswers (s : State) (b1 b2 : Bool) : (s.setIFFs b1 b2).portAnswers = s.portAnswers := rfl
@[simp] theorem setIFFs_portReads (s : State) (b1 b2 : Bool) : (s.setIFFs b1 b2).portReads = s.portReads := rfl
@[simp] theorem setIFFs_busAnswers (s : State) (b1 b2 : Bool) : (s.setIFFs b1 b2).busAnswers = s.busAnswers := rfl
@[simp] theorem setIFFs_busReads (s : State) (b1 b2 : Bool) : (s.setIFFs b1 b2).busReads = s.busReads := rfl
@[simp] theorem setIFFs_trace (s : State) (b1 b2 : Bool) : (s.setIFFs b1 b2).trace = s.trace := rfl
@[simp] theorem setIFFs_memRead (s : State) (b1 b2 : Bool) (x : Word) : (s.setIFFs b1 b2).memRead x = s.memRead x := rfl

/-! ## `exchangeAF` -/

@[simp] theorem exchangeAF_main (s : State) : (s.exchangeAF).main = { s.main with a := s.shadow.a, f := s.shadow.f } := rfl
@[simp] theorem exchangeAF_shadow (s : State) : (s.exchangeAF).shadow = { s.shadow with a := s.main.a, f := s.main.f } := rfl
@[simp] theorem exchangeAF_ix (s : State) : (s.exchangeAF).ix = s.ix := rfl
@[simp] theorem exchangeAF_iy (s : State) : (s.exchangeAF).iy = s.iy := rfl
@[simp] theorem exchangeAF_sp (s : State) : (s.exchangeAF).sp = s.sp := rfl
@[simp] theorem exchangeAF_pc (s : State) : (s.exchangeAF).pc = s.pc := rfl
@[simp] theorem exchangeAF_i (s : State) : (s.exchangeAF).i = s.i := rfl
@[simp] theorem exchangeAF_r (s : State) : (s.exchangeAF).r = s.r := rfl
@[simp] theorem exchangeAF_iff1 (s : State) : (s.exchangeAF).iff1 = s.iff1 := rfl
@[simp] theorem exchangeAF_iff2 (s : State) : (s.exchangeAF).iff2 = s.iff2 := rfl
@[simp] theorem exchangeAF_im (s : State) : (s.exchangeAF).im = s.im := rfl
@[simp] theorem exchangeAF_halt (s : State) : (s.exchangeAF).halt = s.halt := rfl
@[simp] theorem exchangeAF_eiDelay (s : State) : (s.exchangeAF).eiDelay = s.eiDelay := rfl
@[simp] theorem exchangeAF_intPending (s : State) : (s.exchangeAF).intPending = s.intPending := rfl
@[simp] theorem exchangeAF_nmiPending (s : State) : (s.exchangeAF).nmiPending = s.nmiPending := rfl
@[simp] theorem exchangeAF_memorySelect (s : State) : (s.exchangeAF).memorySelect = s.memorySelect := rfl
@[simp] theorem exchangeAF_is128 (s : State) : (s.exchangeAF).is128 = s.is128 := rfl
@[simp] theorem exchangeAF_t (s : State) : (s.exchangeAF).t = s.t := rfl
@[simp] theorem exchangeAF_border (s : State) : (s.exchangeAF).border = s.border := rfl
@[simp] theorem exchangeAF_ram (s : State) : (s.exchangeAF).ram = s.ram := rfl
@[simp] theorem exchangeAF_rom (s : State) : (s.exchangeAF).rom = s.rom := rfl
@[simp] theorem exchangeAF_params (s : State) : (s.exchangeAF).params = s.params := rfl
@[simp] theorem exchangeAF_portAnswers (s : State) : (s.exchangeAF).portAnswers = s.portAnswers := rfl
@[simp] theorem exchangeAF_portReads (s : State) : (s.exchangeAF).portReads = s.portReads := rfl
@[simp] theorem exchangeAF_busAnswers (s : State) : (s.exchangeAF).busAnswers = s.busAnswers := rfl
@[simp] theorem exchangeAF_busReads (s : State) : (s.exchangeAF).busReads = s.busReads := rfl
@[simp] theorem exchangeAF_trace (s : State) : (s.exchangeAF).trace = s.trace := rfl
@[simp] theorem exchangeAF_memRead (s : State) (x : Word) : (s.exchangeAF).memRead x = s.memRead x := rfl

/-! ## `exchangeBanks` -/

@[simp] theorem exchangeBanks_main (s : State) : (s.exchangeBanks).main = { s.shadow with a := s.main.a, f := s.main.f } := rfl
@[simp] theorem exchangeBanks_shadow (s : State) : (s.exchangeBanks).shadow = { s.main with a := s.shadow.a, f := s.shadow.f } := rfl
@[simp] theorem exchangeBanks_ix (s : State) : (s.exchangeBanks).ix = s.ix := rfl
@[simp] theorem exchangeBanks_iy (s : State) : (s.exchangeBanks).iy = s.iy := rfl
@[simp] theorem exchangeBanks_sp (s : State) : (s.exchangeBanks).sp = s.sp := rfl
@[simp] theorem exchangeBanks_pc (s : State) : (s.exchangeBanks).pc = s.pc := rfl
@[simp] theorem exchangeBanks_i (s : State) : (s.exchangeBanks).i = s.i := rfl
@[simp] theorem exchangeBanks_r (s : State) : (s.exchangeBanks).r = s.r := rfl
@[simp] theorem exchangeBanks_iff1 (s : State) : (s.exchangeBanks).iff1 = s.iff1 := rfl
@[simp] theorem exchangeBanks_iff2 (s : State) : (s.exchangeBanks).iff2 = s.iff2 := rfl
@[simp] theorem exchangeBanks_im (s : State) : (s.exchangeBanks).im = s.im := rfl
@[simp] theorem exchangeBanks_halt (s : State) : (s.exchangeBanks).halt = s.halt := rfl
@[simp] theorem exchangeBanks_eiDelay (s : State) : (s.exchangeBanks).eiDelay = s.eiDelay := rfl
@[simp] theorem exchangeBanks_intPending (s : State) : (s.exchangeBanks).intPending = s.intPending := rfl
@[simp] theorem exchangeBanks_nmiPending (s : State) : (s.exchangeBanks).nmiPending = s.nmiPending := rfl
@[simp] theorem exchangeBanks_memorySelect (s : State) : (s.exchangeBanks).memorySelect = s.memorySelect := rfl
@[simp] theorem exchangeBanks_is128 (s : State) : (s.exchangeBanks).is128 = s.is128 := rfl
@[simp] theorem exchangeBanks_t (s : State) : (s.exchangeBanks).t = s.t := rfl
@[simp] theorem exchangeBanks_border (s : State) : (s.exchangeBanks).border = s.border := rfl
@[simp] theorem exchangeBanks_ram (s : State) : (s.exchangeBanks).ram = s.ram := rfl
@[simp] theorem exchangeBanks_rom (s : State) : (s.exchangeBanks).rom = s.rom := rfl
@[simp] theorem exchangeBanks_params (s : State) : (s.exchangeBanks).params = s.params := rfl
@[simp] theorem exchangeBanks_portAnswers (s : State) : (s.exchangeBanks).portAnswers = s.portAnswers := rfl
@[simp] theorem exchangeBanks_portReads (s : State) : (s.exchangeBanks).portReads = s.portReads := rfl
@[simp] theorem exchangeBanks_busAnswers (s : State) : (s.exchangeBanks).busAnswers = s.busAnswers := rfl
@[simp] theorem exchangeBanks_busReads (s : State) : (s.exchangeBanks).busReads = s.busReads := rfl
@[simp] theorem exchangeBanks_trace (s : State) : (s.exchangeBanks).trace = s.trace := rfl
@[simp] theorem exchangeBanks_memRead (s : State) (x : Word) : (s.exchangeBanks).memRead x = s.memRead x := rfl

/-! ## `incR` -/

@[simp] theorem incR_main (s : State) (n : Nat) : (s.incR n).main = s.main := rfl
@[simp] theorem incR_shadow (s : State) (n : Nat) : (s.incR n).shadow = s.shadow := rfl
@[simp] theorem incR_ix (s : State) (n : Nat) : (s.incR n).ix = s.ix := rfl
@[simp] theorem incR_iy (s : State) (n : Nat) : (s.incR n).iy = s.iy := rfl
@[simp] theorem incR_sp (s : State) (n : Nat) : (s.incR n).sp = s.sp := rfl
@[simp] theorem incR_pc (s : State) (n : Nat) : (s.incR n).pc = s.pc := rfl
@[simp] theorem incR_i (s : State) (n : Nat) : (s.incR n).i = s.i := rfl
@[simp] theorem incR_r (s : State) (n : Nat) : (s.incR n).r = (s.r &&& 0x80) ||| ((s.r + BitVec.ofNat 8 n) &&& 0x7F) := rfl
@[simp] theorem incR_iff1 (s : State) (n : Nat) : (s.incR n).iff1 = s.iff1 := rfl
@[simp] theorem incR_iff2 (s : State) (n : Nat) : (s.incR n).iff2 = s.iff2 := rfl
@[simp] theorem incR_im (s : State) (n : Nat) : (s.incR n).im = s.im := rfl
@[simp] theorem incR_halt (s : State) (n : Nat) : (s.incR n).halt = s.halt := rfl
@[simp] theorem incR_eiDelay (s : State) (n : Nat) : (s.incR n).eiDelay = s.eiDelay := rfl
@[simp] theorem incR_intPending (s : State) (n : Nat) : (s.incR n).intPending = s.intPending := rfl
@[simp] theorem incR_nmiPending (s : State) (n : Nat) : (s.incR n).nmiPending = s.nmiPending := rfl
@[simp] theorem incR_memorySelect (s : State) (n : Nat) : (s.incR n).memorySelect = s.memorySelect := rfl
@[simp] theorem incR_is128 (s : State) (n : Nat) : (s.incR n).is128 = s.is128 := rfl
@[simp] theorem incR_t (s : State) (n : Nat) : (s.incR n).t = s.t := rfl
@[simp] theorem incR_border (s : State) (n : Nat) : (s.incR n).border = s.border := rfl
@[simp] theorem incR_ram (s : State) (n : Nat) : (s.incR n).ram = s.ram := rfl
@[simp] theorem incR_rom (s : State) (n : Nat) : (s.incR n).rom = s.rom := rfl
@[simp] theorem incR_params (s : State) (n : Nat) : (s.incR n).params = s.params := rfl
@[simp] theorem incR_portAnswers (s : State) (n : Nat) : (s.incR n).portAnswers = s.portAnswers := rfl
@[simp] theorem incR_portReads (s : State) (n : Nat) : (s.incR n).portReads = s.portReads := rfl
@[simp] theorem incR_busAnswers (s : State) (n : Nat) : (s.incR n).busAnswers = s.busAnswers := rfl
@[simp] theorem incR_busReads (s : State) (n : Nat) : (s.incR n).busReads = s.busReads := rfl
@[simp] theorem incR_trace (s : State) (n : Nat) : (s.incR n).trace = s.trace := rfl
@[simp] theorem incR_memRead (s : State) (n : Nat) (x : Word) : (s.incR n).memRead x = s.memRead x := rfl

/-! ## `addT` -/

@[simp] theorem addT_main (s : State) (n : Nat) : (s.addT n).main = s.main := rfl
@[simp] theorem addT_shadow (s : State) (n : Nat) : (s.addT n).shadow = s.shadow := rfl
@[simp] theorem addT_ix (s : State) (n : Nat) : (s.addT n).ix = s.ix := rfl
@[simp] theorem addT_iy (s : State) (n : Nat) : (s.addT n).iy = s.iy := rfl
@[simp] theorem addT_sp (s : State) (n : Nat) : (s.addT n).sp = s.sp := rfl
@[simp] theorem addT_pc (s : State) (n : Nat) : (s.addT n).pc = s.pc := rfl
@[simp] theorem addT_i (s : State) (n : Nat) : (s.addT n).i = s.i := rfl
@[simp] theorem addT_r (s : State) (n : Nat) : (s.addT n).r = s.r := rfl
@[simp] theorem addT_iff1 (s : State) (n : Nat) : (s.addT n).iff1 = s.iff1 := rfl
@[simp] theorem addT_iff2 (s : State) (n : Nat) : (s.addT n).iff2 = s.iff2 := rfl
@[simp] theorem addT_im (s : State) (n : Nat) : (s.addT n).im = s.im := rfl
@[simp] theorem addT_halt (s : State) (n : Nat) : (s.addT n).halt = s.halt := rfl
@[simp] theorem addT_eiDelay (s : State) (n : Nat) : (s.addT n).eiDelay = s.eiDelay := rfl
@[simp] theorem addT_intPending (s : State) (n : Nat) : (s.addT n).intPending = s.intPending := rfl
@[simp] theorem addT_nmiPending (s : State) (n : Nat) : (s.addT n).nmiPending = s.nmiPending := rfl
@[simp] theorem addT_memorySelect (s : State) (n : Nat) : (s.addT n).memorySelect = s.memorySelect := rfl
@[simp] theorem addT_is128 (s : State) (n : Nat) : (s.addT n).is128 = s.is128 := rfl
@[simp] theorem addT_t (s : State) (n : Nat) : (s.addT n).t = s.t + n := rfl
@[simp] theorem addT_border (s : State) (n : Nat) : (s.addT n).border = s.border := rfl
@[simp] theorem addT_ram (s : State) (n : Nat) : (s.addT n).ram = s.ram := rfl
@[simp] theorem addT_rom (s : State) (n : Nat) : (s.addT n).rom = s.rom := rfl
@[simp] theorem addT_params (s : State) (n : Nat) : (s.addT n).params = s.params := rfl
@[simp] theorem addT_portAnswers (s : State) (n : Nat) : (s.addT n).portAnswers = s.portAnswers := rfl
@[simp] theorem addT_portReads (s : State) (n : Nat) : (s.addT n).portReads = s.portReads := rfl
@[simp] theorem addT_busAnswers (s : State) (n : Nat) : (s.addT n).busAnswers = s.busAnswers := rfl
@[simp] theorem addT_busReads (s : State) (n : Nat) : (s.addT n).busReads = s.busReads := rfl
@[simp] theorem addT_trace (s : State) (n : Nat) : (s.addT n).trace = s.trace := rfl
@[simp] theorem addT_memRead (s : State) (n : Nat) (x : Word) : (s.addT n).memRead x = s.memRead x := rfl

/-! ## `acknowledge` -/

@[simp] theorem acknowledge_main (s : State) : (s.acknowledge).main = s.main := rfl
@[simp] theorem acknowledge_shadow (s : State) : (s.acknowledge).shadow = s.shadow := rfl
@[simp] theorem acknowledge_ix (s : State) : (s.acknowledge).ix = s.ix := rfl
@[simp] theorem acknowledge_iy (s : State) : (s.acknowledge).iy = s.iy := rfl
@[simp] theorem acknowledge_sp (s : State) : (s.acknowledge).sp = s.sp := rfl
@[simp] theorem acknowledge_pc (s : State) : (s.acknowledge).pc = s.pc := rfl
@[simp] theorem acknowledge_i (s : State) : (s.acknowledge).i = s.i := rfl
@[simp] theorem acknowledge_r (s : State) : (s.acknowledge).r = (s.r &&& 0x80) ||| ((s.r + 1) &&& 0x7F) := rfl
@[simp] theorem acknowledge_iff1 (s : State) : (s.acknowledge).iff1 = false := rfl
@[simp] theorem acknowledge_iff2 (s : State) : (s.acknowledge).iff2 = s.iff2 := rfl
@[simp] theorem acknowledge_im (s : State) : (s.acknowledge).im = s.im := rfl
@[simp] theorem acknowledge_halt (s : State) : (s.acknowledge).halt = false := rfl
@[simp] theorem acknowledge_eiDelay (s : State) : (s.acknowledge).eiDelay = false := rfl
@[simp] theorem acknowledge_intPending (s : State) : (s.acknowledge).intPending = s.intPending := rfl
@[simp] theorem acknowledge_nmiPending (s : State) : (s.acknowledge).nmiPending = s.nmiPending := rfl
@[simp] theorem acknowledge_memorySelect (s : State) : (s.acknowledge).memorySelect = s.memorySelect := rfl
@[simp] theorem acknowledge_is128 (s : State) : (s.acknowledge).is128 = s.is128 := rfl
@[simp] theorem acknowledge_t (s : State) : (s.acknowledge).t = s.t := rfl
@[simp] theorem acknowledge_border (s : State) : (s.acknowledge).border = s.border := rfl
@[simp] theorem acknowledge_ram (s : State) : (s.acknowledge).ram = s.ram := rfl
@[simp] theorem acknowledge_rom (s : State) : (s.acknowledge).rom = s.rom := rfl
@[simp] theorem acknowledge_params (s : State) : (s.acknowledge).params = s.params := rfl
@[simp] theorem acknowledge_portAnswers (s : State) : (s.acknowledge).portAnswers = s.portAnswers := rfl
@[simp] theorem acknowledge_portReads (s : State) : (s.acknowledge).portReads = s.portReads := rfl
@[simp] theorem acknowledge_busAnswers (s : State) : (s.acknowledge).busAnswers = s.busAnswers := rfl
@[simp] theorem acknowledge_busReads (s : State) : (s.acknowledge).busReads = s.busReads := rfl
@[simp] theorem acknowledge_trace (s : State) : (s.acknowledge).trace = s.trace := rfl
@[simp] theorem acknowledge_memRead (s : State) (x : Word) : (s.acknowledge).memRead x = s.memRead x := rfl

/-! ## `clearRequest` -/

@[simp] theorem clearRequest_main (s : State) : (s.clearRequest).main = s.main := rfl
@[simp] theorem clearRequest_shadow (s : State) : (s.clearRequest).shadow = s.shadow := rfl
@[simp] theorem clearRequest_ix (s : State) : (s.clearRequest).ix = s.ix := rfl
@[simp] theorem clearRequest_iy (s : State) : (s.clearRequest).iy = s.iy := rfl
@[simp] theorem clearRequest_sp (s : State) : (s.clearRequest).sp = s.sp := rfl
@[simp] theorem clearRequest_pc (s : State) : (s.clearRequest).pc = s.pc := rfl
@[simp] theorem clearRequest_i (s : State) : (s.clearRequest).i = s.i := rfl
@[simp] theorem clearRequest_r (s : State) : (s.clearRequest).r = s.r := rfl
@[simp] theorem clearRequest_iff1 (s : State) : (s.clearRequest).iff1 = s.iff1 := rfl
@[simp] theorem clearRequest_iff2 (s : State) : (s.clearRequest).iff2 = false := rfl
@[simp] theorem clearRequest_im (s : State) : (s.clearRequest).im = s.im := rfl
@[simp] theorem clearRequest_halt (s : State) : (s.clearRequest).halt = s.halt := rfl
@[simp] theorem clearRequest_eiDelay (s : State) : (s.clearRequest).eiDelay = s.eiDelay := rfl
@[simp] theorem clearRequest_intPending (s : State) : (s.clearRequest).intPending = false := rfl
@[simp] theorem clearRequest_nmiPending (s : State) : (s.clearRequest).nmiPending = s.nmiPending := rfl
@[simp] theorem clearRequest_memorySelect (s : State) : (s.clearRequest).memorySelect = s.memorySelect := rfl
@[simp] theorem clearRequest_is128 (s : State) : (s.clearRequest).is128 = s.is128 := rfl
@[simp] theorem clearRequest_t (s : State) : (s.clearRequest).t = s.t := rfl
@[simp] theorem clearRequest_border (s : State) : (s.clearRequest).border = s.border := rfl
@[simp] theorem clearRequest_ram (s : State) : (s.clearRequest).ram = s.ram := rfl
@[simp] theorem clearRequest_rom (s : State) : (s.clearRequest).rom = s.rom := rfl
@[simp] theorem clearRequest_params (s : State) : (s.clearRequest).params = s.params := rfl
@[simp] theorem clearRequest_portAnswers (s : State) : (s.clearRequest).portAnswers = s.portAnswers := rfl
@[simp] theorem clearRequest_portReads (s : State) : (s.clearRequest).portReads = s.portReads := rfl
@[simp] theorem clearRequest_busAnswers (s : State) : (s.clearRequest).busAnswers = s.busAnswers := rfl
@[simp] theorem clearRequest_busReads (s : State) : (s.clearRequest).busReads = s.busReads := rfl
@[simp] theorem clearRequest_trace (s : State) : (s.clearRequest).trace = s.trace := rfl
@[simp] theorem clearRequest_memRead (s : State) (x : Word) : (s.clearRequest).memRead x = s.memRead x := rfl

/-! ## `setReg8` -/

@[simp] theorem setReg8_main (s : State) (q : Reg8) (v : Byte) : (s.setReg8 q v).main = s.main.set q v := rfl
@[simp] theorem setReg8_shadow (s : State) (q : Reg8) (v : Byte) : (s.setReg8 q v).shadow = s.shadow := rfl
@[simp] theorem setReg8_ix (s : State) (q : Reg8) (v : Byte) : (s.setReg8 q v).ix = s.ix := rfl
@[simp] theorem setReg8_iy (s : State) (q : Reg8) (v : Byte) : (s.setReg8 q v).iy = s.iy := rfl
@[simp] theorem setReg8_sp (s : State) (q : Reg8) (v : Byte) : (s.setReg8 q v).sp = s.sp := rfl
@[simp] theorem setReg8_pc (s : State) (q : Reg8) (v : Byte) : (s.setReg8 q v).pc = s.pc := rfl
@[simp] theorem setReg8_i (s : State) (q : Reg8) (v : Byte) : (s.setReg8 q v).i = s.i := rfl
@[simp] theorem setReg8_r (s : State) (q : Reg8) (v : Byte) : (s.setReg8 q v).r = s.r := rfl
@[simp] theorem setReg8_iff1 (s : State) (q : Reg8) (v : Byte) : (s.setReg8 q v).iff1 = s.iff1 := rfl
@[simp] theorem setReg8_iff2 (s : State) (q : Reg8) (v : Byte) : (s.setReg8 q v).iff2 = s.iff2 := rfl
@[simp] theorem setReg8_im (s : State) (q : Reg8) (v : Byte) : (s.setReg8 q v).im = s.im := rfl
@[simp] theorem setReg8_halt (s : State) (q : Reg8) (v : Byte) : (s.setReg8 q v).halt = s.halt := rfl
@[simp] theorem setReg8_eiDelay (s : State) (q : Reg8) (v : Byte) : (s.setReg8 q v).eiDelay = s.eiDelay := rfl
@[simp] theorem setReg8_intPending (s : State) (q : Reg8) (v : Byte) : (s.setReg8 q v).intPending = s.intPending := rfl
@[simp] theorem setReg8_nmiPending (s : State) (q : Reg8) (v : Byte) : (s.setReg8 q v).nmiPending = s.nmiPending := rfl
@[simp] theorem setReg8_memorySelect (s : State) (q : Reg8) (v : Byte) : (s.setReg8 q v).memorySelect = s.memorySelect := rfl
@[simp] theorem setReg8_is128 (s : State) (q : Reg8) (v : Byte) : (s.setReg8 q v).is128 = s.is128 := rfl
@[simp] theorem setReg8_t (s : State) (q : Reg8) (v : Byte) : (s.setReg8 q v).t = s.t := rfl
@[simp] theorem setReg8_border (s : State) (q : Reg8) (v : Byte) : (s.setReg8 q v).border = s.border := rfl
@[simp] theorem setReg8_ram (s : State) (q : Reg8) (v : Byte) : (s.setReg8 q v).ram = s.ram := rfl
@[simp] theorem setReg8_rom (s : State) (q : Reg8) (v : Byte) : (s.setReg8 q v).rom = s.rom := rfl
@[simp] theorem setReg8_params (s : State) (q : Reg8) (v : Byte) : (s.setReg8 q v).params = s.params := rfl
@[simp] theorem setReg8_portAnswers (s : State) (q : Reg8) (v : Byte) : (s.setReg8 q v).portAnswers = s.portAnswers := rfl
@[simp] theorem setReg8_portReads (s : State) (q : Reg8) (v : Byte) : (s.setReg8 q v).portReads = s.portReads := rfl
@[simp] theorem setReg8_busAnswers (s : State) (q : Reg8) (v : Byte) : (s.setReg8 q v).busAnswers = s.busAnswers := rfl
@[simp] theorem setReg8_busReads (s : State) (q : Reg8) (v : Byte) : (s.setReg8 q v).busReads = s.busReads := rfl
@[simp] theorem setReg8_trace (s : State) (q : Reg8) (v : Byte) : (s.setReg8 q v).trace = s.trace := rfl
@[simp] theorem setReg8_memRead (s : State) (q : Reg8) (v : Byte) (x : Word) : (s.setReg8 q v).memRead x = s.memRead x := rfl

/-! ## `setIndex` -/

@[simp] theorem setIndex_main (s : State) (xy : XY) (w : Word) : (s.setIndex xy w).main = s.main := by cases xy <;> rfl
@[simp] theorem setIndex_shadow (s : State) (xy : XY) (w : Word) : (s.setIndex xy w).shadow = s.shadow := by cases xy <;> rfl
@[simp] theorem setIndex_sp (s : State) (xy : XY) (w : Word) : (s.setIndex xy w).sp = s.sp := by cases xy <;> rfl
@[simp] theorem setIndex_pc (s : State) (xy : XY) (w : Word) : (s.setIndex xy w).pc = s.pc := by cases xy <;> rfl
@[simp] theorem setIndex_i (s : State) (xy : XY) (w : Word) : (s.setIndex xy w).i = s.i := by cases xy <;> rfl
@[simp] theorem setIndex_r (s : State) (xy : XY) (w : Word) : (s.setIndex xy w).r = s.r := by cases xy <;> rfl
@[simp] theorem setIndex_iff1 (s : State) (xy : XY) (w : Word) : (s.setIndex xy w).iff1 = s.iff1 := by cases xy <;> rfl
@[simp] theorem setIndex_iff2 (s : State) (xy : XY) (w : Word) : (s.setIndex xy w).iff2 = s.iff2 := by cases xy <;> rfl
@[simp] theorem setIndex_im (s : State) (xy : XY) (w : Word) : (s.setIndex xy w).im = s.im := by cases xy <;> rfl
@[simp] theorem setIndex_halt (s : State) (xy : XY) (w : Word) : (s.setIndex xy w).halt = s.halt := by cases xy <;> rfl
@[simp] theorem setIndex_eiDelay (s : State) (xy : XY) (w : Word) : (s.setIndex xy w).eiDelay = s.eiDelay := by cases xy <;> rfl
@[simp] theorem setIndex_intPending (s : State) (xy : XY) (w : Word) : (s.setIndex xy w).intPending = s.intPending := by cases xy <;> rfl
@[simp] theorem setIndex_nmiPending (s : State) (xy : XY) (w : Word) : (s.setIndex xy w).nmiPending = s.nmiPending := by cases xy <;> rfl
@[simp] theorem setIndex_memorySelect (s : State) (xy : XY) (w : Word) : (s.setIndex xy w).memorySelect = s.memorySelect := by cases xy <;> rfl
@[simp] theorem setIndex_is128 (s : State) (xy : XY) (w : Word) : (s.setIndex xy w).is128 = s.is128 := by cases xy <;> rfl
@[simp] theorem setIndex_t (s : State) (xy : XY) (w : Word) : (s.setIndex xy w).t = s.t := by cases xy <;> rfl
@[simp] theorem setIndex_border (s : State) (xy : XY) (w : Word) : (s.setIndex xy w).border = s.border := by cases xy <;> rfl
@[simp] theorem setIndex_ram (s : State) (xy : XY) (w : Word) : (s.setIndex xy w).ram = s.ram := by cases xy <;> rfl
@[simp] theorem setIndex_rom (s : State) (xy : XY) (w : Word) : (s.setIndex xy w).rom = s.rom := by cases xy <;> rfl
@[simp] theorem setIndex_params (s : State) (xy : XY) (w : Word) : (s.setIndex xy w).params = s.params := by cases xy <;> rfl
@[simp] theorem setIndex_portAnswers (s : State) (xy : XY) (w : Word) : (s.setIndex xy w).portAnswers = s.portAnswers := by cases xy <;> rfl
@[simp] theorem setIndex_portReads (s : State) (xy : XY) (w : Word) : (s.setIndex xy w).portReads = s.portReads := by cases xy <;> rfl
@[simp] theorem setIndex_busAnswers (s : State) (xy : XY) (w : Word) : (s.setIndex xy w).busAnswers = s.busAnswers := by cases xy <;> rfl
@[simp] theorem setIndex_busReads (s : State) (xy : XY) (w : Word) : (s.setIndex xy w).busReads = s.busReads := by cases xy <;> rfl
@[simp] theorem setIndex_trace (s : State) (xy : XY) (w : Word) : (s.setIndex xy w).trace = s.trace := by cases xy <;> rfl
@[simp] theorem setIndex_memRead (s : State) (xy : XY) (w : Word) (x : Word) : (s.setIndex xy w).memRead x = s.memRead x := by simp [memRead]

/-! ## `setHalf` -/

@[simp] theorem setHalf_main (s : State) (xy : XY) (p : Half) (v : Byte) : (s.setHalf xy p v).main = s.main := by cases xy <;> cases p <;> rfl
@[simp] theorem setHalf_shadow (s : State) (xy : XY) (p : Half) (v : Byte) : (s.setHalf xy p v).shadow = s.shadow := by cases xy <;> cases p <;> rfl
@[simp] theorem setHalf_sp (s : State) (xy : XY) (p : Half) (v : Byte) : (s.setHalf xy p v).sp = s.sp := by cases xy <;> cases p <;> rfl
@[simp] theorem setHalf_pc (s : State) (xy : XY) (p : Half) (v : Byte) : (s.setHalf xy p v).pc = s.pc := by cases xy <;> cases p <;> rfl
@[simp] theorem setHalf_i (s : State) (xy : XY) (p : Half) (v : Byte) : (s.setHalf xy p v).i = s.i := by cases xy <;> cases p <;> rfl
@[simp] theorem setHalf_r (s : State) (xy : XY) (p : Half) (v : Byte) : (s.setHalf xy p v).r = s.r := by cases xy <;> cases p <;> rfl
@[simp] theorem setHalf_iff1 (s : State) (xy : XY) (p : Half) (v : Byte) : (s.setHalf xy p v).iff1 = s.iff1 := by cases xy <;> cases p <;> rfl
@[simp] theorem setHalf_iff2 (s : State) (xy : XY) (p : Half) (v : Byte) : (s.setHalf xy p v).iff2 = s.iff2 := by cases xy <;> cases p <;> rfl
@[simp] theorem setHalf_im (s : State) (xy : XY) (p : Half) (v : Byte) : (s.setHalf xy p v).im = s.im := by cases xy <;> cases p <;> rfl
@[simp] theorem setHalf_halt (s : State) (xy : XY) (p : Half) (v : Byte) : (s.setHalf xy p v).halt = s.halt := by cases xy <;> cases p <;> rfl
@[simp] theorem setHalf_eiDelay (s : State) (xy : XY) (p : Half) (v : Byte) : (s.setHalf xy p v).eiDelay = s.eiDelay := by cases xy <;> cases p <;> rfl
@[simp] theorem setHalf_intPending (s : State) (xy : XY) (p : Half) (v : Byte) : (s.setHalf xy p v).intPending = s.intPending := by cases xy <;> cases p <;> rfl
@[simp] theorem setHalf_nmiPending (s : State) (xy : XY) (p : Half) (v : Byte) : (s.setHalf xy p v).nmiPending = s.nmiPending := by cases xy <;> cases p <;> rfl
@[simp] theorem setHalf_memorySelect (s : State) (xy : XY) (p : Half) (v : Byte) : (s.setHalf xy p v).memorySelect = s.memorySelect := by cases xy <;> cases p <;> rfl
@[simp] theorem setHalf_is128 (s : State) (xy : XY) (p : Half) (v : Byte) : (s.setHalf xy p v).is128 = s.is128 := by cases xy <;> cases p <;> rfl
@[simp] theorem setHalf_t (s : State) (xy : XY) (p : Half) (v : Byte) : (s.setHalf xy p v).t = s.t := by cases xy <;> cases p <;> rfl
@[simp] theorem setHalf_border (s : State) (xy : XY) (p : Half) (v : Byte) : (s.setHalf xy p v).border = s.border := by cases xy <;> cases p <;> rfl
@[simp] theorem setHalf_ram (s : State) (xy : XY) (p : Half) (v : Byte) : (s.setHalf xy p v).ram = s.ram := by cases xy <;> cases p <;> rfl
@[simp] theorem setHalf_rom (s : State) (xy : XY) (p : Half) (v : Byte) : (s.setHalf xy p v).rom = s.rom := by cases xy <;> cases p <;> rfl
@[simp] theorem setHalf_params (s : State) (xy : XY) (p : Half) (v : Byte) : (s.setHalf xy p v).params = s.params := by cases xy <;> cases p <;> rfl
@[simp] theorem setHalf_portAnswers (s : State) (xy : XY) (p : Half) (v : Byte) : (s.setHalf xy p v).portAnswers = s.portAnswers := by cases xy <;> cases p <;> rfl
@[simp] theorem setHalf_portReads (s : State) (xy : XY) (p : Half) (v : Byte) : (s.setHalf xy p v).portReads = s.portReads := by cases xy <;> cases p <;> rfl
@[simp] theorem setHalf_busAnswers (s : State) (xy : XY) (p : Half) (v : Byte) : (s.setHalf xy p v).busAnswers = s.busAnswers := by cases xy <;> cases p <;> rfl
@[simp] theorem setHalf_busReads (s : State) (xy : XY) (p : Half) (v : Byte) : (s.setHalf xy p v).busReads = s.busReads := by cases xy <;> cases p <;> rfl
@[simp] theorem setHalf_trace (s : State) (xy : XY) (p : Half) (v : Byte) : (s.setHalf xy p v).trace = s.trace := by cases xy <;> cases p <;> rfl
@[simp] theorem setHalf_memRead (s : State) (xy : XY) (p : Half) (v : Byte) (x : Word) : (s.setHalf xy p v).memRead x = s.memRead x := by simp [memRead]

/-! ## `setPReg` -/

@[simp] theorem setPReg_shadow (s : State) (xy : XY) (p : PReg) (v : Byte) : (s.setPReg xy p v).shadow = s.shadow := by cases p <;> cases xy <;> rfl
@[simp] theorem setPReg_sp (s : State) (xy : XY) (p : PReg) (v : Byte) : (s.setPReg xy p v).sp = s.sp := by cases p <;> cases xy <;> rfl
@[simp] theorem setPReg_pc (s : State) (xy : XY) (p : PReg) (v : Byte) : (s.setPReg xy p v).pc = s.pc := by cases p <;> cases xy <;> rfl
@[simp] theorem setPReg_i (s : State) (xy : XY) (p : PReg) (v : Byte) : (s.setPReg xy p v).i = s.i := by cases p <;> cases xy <;> rfl
@[simp] theorem setPReg_r (s : State) (xy : XY) (p : PReg) (v : Byte) : (s.setPReg xy p v).r = s.r := by cases p <;> cases xy <;> rfl
@[simp] theorem setPReg_iff1 (s : State) (xy : XY) (p : PReg) (v : Byte) : (s.setPReg xy p v).iff1 = s.iff1 := by cases p <;> cases xy <;> rfl
@[simp] theorem setPReg_iff2 (s : State) (xy : XY) (p : PReg) (v : Byte) : (s.setPReg xy p v).iff2 = s.iff2 := by cases p <;> cases xy <;> rfl
@[simp] theorem setPReg_im (s : State) (xy : XY) (p : PReg) (v : Byte) : (s.setPReg xy p v).im = s.im := by cases p <;> cases xy <;> rfl
@[simp] theorem setPReg_halt (s : State) (xy : XY) (p : PReg) (v : Byte) : (s.setPReg xy p v).halt = s.halt := by cases p <;> cases xy <;> rfl
@[simp] theorem setPReg_eiDelay (s : State) (xy : XY) (p : PReg) (v : Byte) : (s.setPReg xy p v).eiDelay = s.eiDelay := by cases p <;> cases xy <;> rfl
@[simp] theorem setPReg_intPending (s : State) (xy : XY) (p : PReg) (v : Byte) : (s.setPReg xy p v).intPending = s.intPending := by cases p <;> cases xy <;> rfl
@[simp] theorem setPReg_nmiPending (s : State) (xy : XY) (p : PReg) (v : Byte) : (s.setPReg xy p v).nmiPending = s.nmiPending := by cases p <;> cases xy <;> rfl
@[simp] theorem setPReg_memorySelect (s : State) (xy : XY) (p : PReg) (v : Byte) : (s.setPReg xy p v).memorySelect = s.memorySelect := by cases p <;> cases xy <;> rfl
@[simp] theorem setPReg_is128 (s : State) (xy : XY) (p : PReg) (v : Byte) : (s.setPReg xy p v).is128 = s.is128 := by cases p <;> cases xy <;> rfl
@[simp] theorem setPReg_t (s : State) (xy : XY) (p : PReg) (v : Byte) : (s.setPReg xy p v).t = s.t := by cases p <;> cases xy <;> rfl
@[simp] theorem setPReg_border (s : State) (xy : XY) (p : PReg) (v : Byte) : (s.setPReg xy p v).border = s.border := by cases p <;> cases xy <;> rfl
@[simp] theorem setPReg_ram (s : State) (xy : XY) (p : PReg) (v : Byte) : (s.setPReg xy p v).ram = s.ram := by cases p <;> cases xy <;> rfl
@[simp] theorem setPReg_rom (s : State) (xy : XY) (p : PReg) (v : Byte) : (s.setPReg xy p v).rom = s.rom := by cases p <;> cases xy <;> rfl
@[simp] theorem setPReg_params (s : State) (xy : XY) (p : PReg) (v : Byte) : (s.setPReg xy p v).params = s.params := by cases p <;> cases xy <;> rfl
@[simp] theorem setPReg_portAnswers (s : State) (xy : XY) (p : PReg) (v : Byte) : (s.setPReg xy p v).portAnswers = s.portAnswers := by cases p <;> cases xy <;> rfl
@[simp] theorem setPReg_portReads (s : State) (xy : XY) (p : PReg) (v : Byte) : (s.setPReg xy p v).portReads = s.portReads := by cases p <;> cases xy <;> rfl
@[simp] theorem setPReg_busAnswers (s : State) (xy : XY) (p : PReg) (v : Byte) : (s.setPReg xy p v).busAnswers = s.busAnswers := by cases p <;> cases xy <;> rfl
@[simp] theorem setPReg_busReads (s : State) (xy : XY) (p : PReg) (v : Byte) : (s.setPReg xy p v).busReads = s.busReads := by cases p <;> cases xy <;> rfl
@[simp] theorem setPReg_trace (s : State) (xy : XY) (p : PReg) (v : Byte) : (s.setPReg xy p v).trace = s.trace := by cases p <;> cases xy <;> rfl
@[simp] theorem setPReg_memRead (s : State) (xy : XY) (p : PReg) (v : Byte) (x : Word) : (s.setPReg xy p v).memRead x = s.memRead x := by simp [memRead]

/-! ## `setDD` -/

@[simp] theorem setDD_shadow (s : State) (dd : PairDD) (w : Word) : (s.setDD dd w).shadow = s.shadow := by cases dd <;> rfl
@[simp] theorem setDD_ix (s : State) (dd : PairDD) (w : Word) : (s.setDD dd w).ix = s.ix := by cases dd <;> rfl
@[simp] theorem setDD_iy (s : State) (dd : PairDD) (w : Word) : (s.setDD dd w).iy = s.iy := by cases dd <;> rfl
@[simp] theorem setDD_pc (s : State) (dd : PairDD) (w : Word) : (s.setDD dd w).pc = s.pc := by cases dd <;> rfl
@[simp] theorem setDD_i (s : State) (dd : PairDD) (w : Word) : (s.setDD dd w).i = s.i := by cases dd <;> rfl
@[simp] theorem setDD_r (s : State) (dd : PairDD) (w : Word) : (s.setDD dd w).r = s.r := by cases dd <;> rfl
@[simp] theorem setDD_iff1 (s : State) (dd : PairDD) (w : Word) : (s.setDD dd w).iff1 = s.iff1 := by cases dd <;> rfl
@[simp] theorem setDD_iff2 (s : State) (dd : PairDD) (w : Word) : (s.setDD dd w).iff2 = s.iff2 := by cases dd <;> rfl
@[simp] theorem setDD_im (s : State) (dd : PairDD) (w : Word) : (s.setDD dd w).im = s.im := by cases dd <;> rfl
@[simp] theorem setDD_halt (s : State) (dd : PairDD) (w : Word) : (s.setDD dd w).halt = s.halt := by cases dd <;> rfl
@[simp] theorem setDD_eiDelay (s : State) (dd : PairDD) (w : Word) : (s.setDD dd w).eiDelay = s.eiDelay := by cases dd <;> rfl
@[simp] theorem setDD_intPending (s : State) (dd : PairDD) (w : Word) : (s.setDD dd w).intPending = s.intPending := by cases dd <;> rfl
@[simp] theorem setDD_nmiPending (s : State) (dd : PairDD) (w : Word) : (s.setDD dd w).nmiPending = s.nmiPending := by cases dd <;> rfl
@[simp] theorem setDD_memorySelect (s : State) (dd : PairDD) (w : Word) : (s.setDD dd w).memorySelect = s.memorySelect := by cases dd <;> rfl
@[simp] theorem setDD_is128 (s : State) (dd : PairDD) (w : Word) : (s.setDD dd w).is128 = s.is128 := by cases dd <;> rfl
@[simp] theorem setDD_t (s : State) (dd : PairDD) (w : Word) : (s.setDD dd w).t = s.t := by cases dd <;> rfl
@[simp] theorem setDD_border (s : State) (dd : PairDD) (w : Word) : (s.setDD dd w).border = s.border := by cases dd <;> rfl
@[simp] theorem setDD_ram (s : State) (dd : PairDD) (w : Word) : (s.setDD dd w).ram = s.ram := by cases dd <;> rfl
@[simp] theorem setDD_rom (s : State) (dd : PairDD) (w : Word) : (s.setDD dd w).rom = s.rom := by cases dd <;> rfl
@[simp] theorem setDD_params (s : State) (dd : PairDD) (w : Word) : (s.setDD dd w).params = s.params := by cases dd <;> rfl
@[simp] theorem setDD_portAnswers (s : State) (dd : PairDD) (w : Word) : (s.setDD dd w).portAnswers = s.portAnswers := by cases dd <;> rfl
@[simp] theorem setDD_portReads (s : State) (dd : PairDD) (w : Word) : (s.setDD dd w).portReads = s.portReads := by cases dd <;> rfl
@[simp] theorem setDD_busAnswers (s : State) (dd : PairDD) (w : Word) : (s.setDD dd w).busAnswers = s.busAnswers := by cases dd <;> rfl
@[simp] theorem setDD_busReads (s : State) (dd : PairDD) (w : Word) : (s.setDD dd w).busReads = s.busReads := by cases dd <;> rfl
@[simp] theorem setDD_trace (s : State) (dd : PairDD) (w : Word) : (s.setDD dd w).trace = s.trace := by cases dd <;> rfl
@[simp] theorem setDD_memRead (s : State) (dd : PairDD) (w : Word) (x : Word) : (s.setDD dd w).memRead x = s.memRead x := by simp [memRead]

/-! ## `setQQ` -/

@[simp] theorem setQQ_shadow (s : State) (qq : PairQQ) (w : Word) : (s.setQQ qq w).shadow = s.shadow := by cases qq <;> rfl
@[simp] theorem setQQ_ix (s : State) (qq : PairQQ) (w : Word) : (s.setQQ qq w).ix = s.ix := by cases qq <;> rfl
@[simp] theorem setQQ_iy (s : State) (qq : PairQQ) (w : Word) : (s.setQQ qq w).iy = s.iy := by cases qq <;> rfl
@[simp] theorem setQQ_sp (s : State) (qq : PairQQ) (w : Word) : (s.setQQ qq w).sp = s.sp := by cases qq <;> rfl
@[simp] theorem setQQ_pc (s : State) (qq : PairQQ) (w : Word) : (s.setQQ qq w).pc = s.pc := by cases qq <;> rfl
@[simp] theorem setQQ_i (s : State) (qq : PairQQ) (w : Word) : (s.setQQ qq w).i = s.i := by cases qq <;> rfl
@[simp] theorem setQQ_r (s : State) (qq : PairQQ) (w : Word) : (s.setQQ qq w).r = s.r := by cases qq <;> rfl
@[simp] theorem setQQ_iff1 (s : State) (qq : PairQQ) (w : Word) : (s.setQQ qq w).iff1 = s.iff1 := by cases qq <;> rfl
@[simp] theorem setQQ_iff2 (s : State) (qq : PairQQ) (w : Word) : (s.setQQ qq w).iff2 = s.iff2 := by cases qq <;> rfl
@[simp] theorem setQQ_im (s : State) (qq : PairQQ) (w : Word) : (s.setQQ qq w).im = s.im := by cases qq <;> rfl
@[simp] theorem setQQ_halt (s : State) (qq : PairQQ) (w : Word) : (s.setQQ qq w).halt = s.halt := by cases qq <;> rfl
@[simp] theorem setQQ_eiDelay (s : State) (qq : PairQQ) (w : Word) : (s.setQQ qq w).eiDelay = s.eiDelay := by cases qq <;> rfl
@[simp] theorem setQQ_intPending (s : State) (qq : PairQQ) (w : Word) : (s.setQQ qq w).intPending = s.intPending := by cases qq <;> rfl
@[simp] theorem setQQ_nmiPending (s : State) (qq : PairQQ) (w : Word) : (s.setQQ qq w).nmiPending = s.nmiPending := by cases qq <;> rfl
@[simp] theorem setQQ_memorySelect (s : State) (qq : PairQQ) (w : Word) : (s.setQQ qq w).memorySelect = s.memorySelect := by cases qq <;> rfl
@[simp] theorem setQQ_is128 (s : State) (qq : PairQQ) (w : Word) : (s.setQQ qq w).is128 = s.is128 := by cases qq <;> rfl
@[simp] theorem setQQ_t (s : State) (qq : PairQQ) (w : Word) : (s.setQQ qq w).t = s.t := by cases qq <;> rfl
@[simp] theorem setQQ_border (s : State) (qq : PairQQ) (w : Word) : (s.setQQ qq w).border = s.border := by cases qq <;> rfl
@[simp] theorem setQQ_ram (s : State) (qq : PairQQ) (w : Word) : (s.setQQ qq w).ram = s.ram := by cases qq <;> rfl
@[simp] theorem setQQ_rom (s : State) (qq : PairQQ) (w : Word) : (s.setQQ qq w).rom = s.rom := by cases qq <;> rfl
@[simp] theorem setQQ_params (s : State) (qq : PairQQ) (w : Word) : (s.setQQ qq w).params = s.params := by cases qq <;> rfl
@[simp] theorem setQQ_portAnswers (s : State) (qq : PairQQ) (w : Word) : (s.setQQ qq w).portAnswers = s.portAnswers := by cases qq <;> rfl
@[simp] theorem setQQ_portReads (s : State) (qq : PairQQ) (w : Word) : (s.setQQ qq w).portReads = s.portReads := by cases qq <;> rfl
@[simp] theorem setQQ_busAnswers (s : State) (qq : PairQQ) (w : Word) : (s.setQQ qq w).busAnswers = s.busAnswers := by cases qq <;> rfl
@[simp] theorem setQQ_busReads (s : State) (qq : PairQQ) (w : Word) : (s.setQQ qq w).busReads = s.busReads := by cases qq <;> rfl
@[simp] theorem setQQ_trace (s : State) (qq : PairQQ) (w : Word) : (s.setQQ qq w).trace = s.trace := by cases qq <;> rfl
@[simp] theorem setQQ_memRead (s : State) (qq : PairQQ) (w : Word) (x : Word) : (s.setQQ qq w).memRead x = s.memRead x := by simp [memRead]

/-! ## `memWrite` -/

@[simp] theorem memWrite_main (s : State) (a : Word) (v : Byte) : (s.memWrite a v).main = s.main := by unfold memWrite; split <;> rfl
@[simp] theorem memWrite_shadow (s : State) (a : Word) (v : Byte) : (s.memWrite a v).shadow = s.shadow := by unfold memWrite; split <;> rfl
@[simp] theorem memWrite_ix (s : State) (a : Word) (v : Byte) : (s.memWrite a v).ix = s.ix := by unfold memWrite; split <;> rfl
@[simp] theorem memWrite_iy (s : State) (a : Word) (v : Byte) : (s.memWrite a v).iy = s.iy := by unfold memWrite; split <;> rfl
@[simp] theorem memWrite_sp (s : State) (a : Word) (v : Byte) : (s.memWrite a v).sp = s.sp := by unfold memWrite; split <;> rfl
@[simp] theorem memWrite_pc (s : State) (a : Word) (v : Byte) : (s.memWrite a v).pc = s.pc := by unfold memWrite; split <;> rfl
@[simp] theorem memWrite_i (s : State) (a : Word) (v : Byte) : (s.memWrite a v).i = s.i := by unfold memWrite; split <;> rfl
@[simp] theorem memWrite_r (s : State) (a : Word) (v : Byte) : (s.memWrite a v).r = s.r := by unfold memWrite; split <;> rfl
@[simp] theorem memWrite_iff1 (s : State) (a : Word) (v : Byte) : (s.memWrite a v).iff1 = s.iff1 := by unfold memWrite; split <;> rfl
@[simp] theorem memWrite_iff2 (s : State) (a : Word) (v : Byte) : (s.memWrite a v).iff2 = s.iff2 := by unfold memWrite; split <;> rfl
@[simp] theorem memWrite_im (s : State) (a : Word) (v : Byte) : (s.memWrite a v).im = s.im := by unfold memWrite; split <;> rfl
@[simp] theorem memWrite_halt (s : State) (a : Word) (v : Byte) : (s.memWrite a v).halt = s.halt := by unfold memWrite; split <;> rfl
@[simp] theorem memWrite_eiDelay (s : State) (a : Word) (v : Byte) : (s.memWrite a v).eiDelay = s.eiDelay := by unfold memWrite; split <;> rfl
@[simp] theorem memWrite_intPending (s : State) (a : Word) (v : Byte) : (s.memWrite a v).intPending = s.intPending := by unfold memWrite; split <;> rfl
@[simp] theorem memWrite_nmiPending (s : State) (a : Word) (v : Byte) : (s.memWrite a v).nmiPending = s.nmiPending := by unfold memWrite; split <;> rfl
@[simp] theorem memWrite_memorySelect (s : State) (a : Word) (v : Byte) : (s.memWrite a v).memorySelect = s.memorySelect := by unfold memWrite; split <;> rfl
@[simp] theorem memWrite_is128 (s : State) (a : Word) (v : Byte) : (s.memWrite a v).is128 = s.is128 := by unfold memWrite; split <;> rfl
@[simp] theorem memWrite_t (s : State) (a : Word) (v : Byte) : (s.memWrite a v).t = s.t := by unfold memWrite; split <;> rfl
@[simp] theorem memWrite_border (s : State) (a : Word) (v : Byte) : (s.memWrite a v).border = s.border := by unfold memWrite; split <;> rfl
@[simp] theorem memWrite_rom (s : State) (a : Word) (v : Byte) : (s.memWrite a v).rom = s.rom := by unfold memWrite; split <;> rfl
@[simp] theorem memWrite_params (s : State) (a : Word) (v : Byte) : (s.memWrite a v).params = s.params := by unfold memWrite; split <;> rfl
@[simp] theorem memWrite_portAnswers (s : State) (a : Word) (v : Byte) : (s.memWrite a v).portAnswers = s.portAnswers := by unfold memWrite; split <;> rfl
@[simp] theorem memWrite_portReads (s : State) (a : Word) (v : Byte) : (s.memWrite a v).portReads = s.portReads := by unfold memWrite; split <;> rfl
@[simp] theorem memWrite_busAnswers (s : State) (a : Word) (v : Byte) : (s.memWrite a v).busAnswers = s.busAnswers := by unfold memWrite; split <;> rfl
@[simp] theorem memWrite_busReads (s : State) (a : Word) (v : Byte) : (s.memWrite a v).busReads = s.busReads := by unfold memWrite; split <;> rfl
@[simp] theorem memWrite_trace (s : State) (a : Word) (v : Byte) : (s.memWrite a v).trace = s.trace := by unfold memWrite; split <;> rfl

/-! ## `setPaging` -/

@[simp] theorem setPaging_main (s : State) (b : Byte) : (s.setPaging b).main = s.main := by unfold setPaging; split <;> rfl
@[simp] theorem setPaging_shadow (s : State) (b : Byte) : (s.setPaging b).shadow = s.shadow := by unfold setPaging; split <;> rfl
@[simp] theorem setPaging_ix (s : State) (b : Byte) : (s.setPaging b).ix = s.ix := by unfold setPaging; split <;> rfl
@[simp] theorem setPaging_iy (s : State) (b : Byte) : (s.setPaging b).iy = s.iy := by unfold setPaging; split <;> rfl
@[simp] theorem setPaging_sp (s : State) (b : Byte) : (s.setPaging b).sp = s.sp := by unfold setPaging; split <;> rfl
@[simp] theorem setPaging_pc (s : State) (b : Byte) : (s.setPaging b).pc = s.pc := by unfold setPaging; split <;> rfl
@[simp] theorem setPaging_i (s : State) (b : Byte) : (s.setPaging b).i = s.i := by unfold setPaging; split <;> rfl
@[simp] theorem setPaging_r (s : State) (b : Byte) : (s.setPaging b).r = s.r := by unfold setPaging; split <;> rfl
@[simp] theorem setPaging_iff1 (s : State) (b : Byte) : (s.setPaging b).iff1 = s.iff1 := by unfold setPaging; split <;> rfl
@[simp] theorem setPaging_iff2 (s : State) (b : Byte) : (s.setPaging b).iff2 = s.iff2 := by unfold setPaging; split <;> rfl
@[simp] theorem setPaging_im (s : State) (b : Byte) : (s.setPaging b).im = s.im := by unfold setPaging; split <;> rfl
@[simp] theorem setPaging_halt (s : State) (b : Byte) : (s.setPaging b).halt = s.halt := by unfold setPaging; split <;> rfl
@[simp] theorem setPaging_eiDelay (s : State) (b : Byte) : (s.setPaging b).eiDelay = s.eiDelay := by unfold setPaging; split <;> rfl
@[simp] theorem setPaging_intPending (s : State) (b : Byte) : (s.setPaging b).intPending = s.intPending := by unfold setPaging; split <;> rfl
@[simp] theorem setPaging_nmiPending (s : State) (b : Byte) : (s.setPaging b).nmiPending = s.nmiPending := by unfold setPaging; split <;> rfl
@[simp] theorem setPaging_is128 (s : State) (b : Byte) : (s.setPaging b).is128 = s.is128 := by unfold setPaging; split <;> rfl
@[simp] theorem setPaging_t (s : State) (b : Byte) : (s.setPaging b).t = s.t := by unfold setPaging; split <;> rfl
@[simp] theorem setPaging_border (s : State) (b : Byte) : (s.setPaging b).border = s.border := by unfold setPaging; split <;> rfl
@[simp] theorem setPaging_ram (s : State) (b : Byte) : (s.setPaging b).ram = s.ram := by unfold setPaging; split <;> rfl
@[simp] theorem setPaging_rom (s : State) (b : Byte) : (s.setPaging b).rom = s.rom := by unfold setPaging; split <;> rfl
@[simp] theorem setPaging_params (s : State) (b : Byte) : (s.setPaging b).params = s.params := by unfold setPaging; split <;> rfl
@[simp] theorem setPaging_portAnswers (s : State) (b : Byte) : (s.setPaging b).portAnswers = s.portAnswers := by unfold setPaging; split <;> rfl
@[simp] theorem setPaging_portReads (s : State) (b : Byte) : (s.setPaging b).portReads = s.portReads := by unfold setPaging; split <;> rfl
@[simp] theorem setPaging_busAnswers (s : State) (b : Byte) : (s.setPaging b).busAnswers = s.busAnswers := by unfold setPaging; split <;> rfl
@[simp] theorem setPaging_busReads (s : State) (b : Byte) : (s.setPaging b).busReads = s.busReads := by unfold setPaging; split <;> rfl
@[simp] theorem setPaging_trace (s : State) (b : Byte) : (s.setPaging b).trace = s.trace := by unfold setPaging; split <;> rfl

/-! ## `rewindIf` -/

@[simp] theorem rewindIf_main (s : State) (again : Bool) : (s.rewindIf again).main = s.main := by unfold rewindIf; split <;> rfl
@[simp] theorem rewindIf_shadow (s : State) (again : Bool) : (s.rewindIf again).shadow = s.shadow := by unfold rewindIf; split <;> rfl
@[simp] theorem rewindIf_ix (s : State) (again : Bool) : (s.rewindIf again).ix = s.ix := by unfold rewindIf; split <;> rfl
@[simp] theorem rewindIf_iy (s : State) (again : Bool) : (s.rewindIf again).iy = s.iy := by unfold rewindIf; split <;> rfl
@[simp] theorem rewindIf_sp (s : State) (again : Bool) : (s.rewindIf again).sp = s.sp := by unfold rewindIf; split <;> rfl
@[simp] theorem rewindIf_i (s : State) (again : Bool) : (s.rewindIf again).i = s.i := by unfold rewindIf; split <;> rfl
@[simp] theorem rewindIf_r (s : State) (again : Bool) : (s.rewindIf again).r = s.r := by unfold rewindIf; split <;> rfl
@[simp] theorem rewindIf_iff1 (s : State) (again : Bool) : (s.rewindIf again).iff1 = s.iff1 := by unfold rewindIf; split <;> rfl
@[simp] theorem rewindIf_iff2 (s : State) (again : Bool) : (s.rewindIf again).iff2 = s.iff2 := by unfold rewindIf; split <;> rfl
@[simp] theorem rewindIf_im (s : State) (again : Bool) : (s.rewindIf again).im = s.im := by unfold rewindIf; split <;> rfl
@[simp] theorem rewindIf_halt (s : State) (again : Bool) : (s.rewindIf again).halt = s.halt := by unfold rewindIf; split <;> rfl
@[simp] theorem rewindIf_eiDelay (s : State) (again : Bool) : (s.rewindIf again).eiDelay = s.eiDelay := by unfold rewindIf; split <;> rfl
@[simp] theorem rewindIf_intPending (s : State) (again : Bool) : (s.rewindIf again).intPending = s.intPending := by unfold rewindIf; split <;> rfl
@[simp] theorem rewindIf_nmiPending (s : State) (again : Bool) : (s.rewindIf again).nmiPending = s.nmiPending := by unfold rewindIf; split <;> rfl
@[simp] theorem rewindIf_memorySelect (s : State) (again : Bool) : (s.rewindIf again).memorySelect = s.memorySelect := by unfold rewindIf; split <;> rfl
@[simp] theorem rewindIf_is128 (s : State) (again : Bool) : (s.rewindIf again).is128 = s.is128 := by unfold rewindIf; split <;> rfl
@[simp] theorem rewindIf_t (s : State) (again : Bool) : (s.rewindIf again).t = s.t := by unfold rewindIf; split <;> rfl
@[simp] theorem rewindIf_border (s : State) (again : Bool) : (s.rewindIf again).border = s.border := by unfold rewindIf; split <;> rfl
@[simp] theorem rewindIf_ram (s : State) (again : Bool) : (s.rewindIf again).ram = s.ram := by unfold rewindIf; split <;> rfl
@[simp] theorem rewindIf_rom (s : State) (again : Bool) : (s.rewindIf again).rom = s.rom := by unfold rewindIf; split <;> rfl
@[simp] theorem rewindIf_params (s : State) (again : Bool) : (s.rewindIf again).params = s.params := by unfold rewindIf; split <;> rfl
@[simp] theorem rewindIf_portAnswers (s : State) (again : Bool) : (s.rewindIf again).portAnswers = s.portAnswers := by unfold rewindIf; split <;> rfl
@[simp] theorem rewindIf_portReads (s : State) (again : Bool) : (s.rewindIf again).portReads = s.portReads := by unfold rewindIf; split <;> rfl
@[simp] theorem rewindIf_busAnswers (s : State) (again : Bool) : (s.rewindIf again).busAnswers = s.busAnswers := by unfold rewindIf; split <;> rfl
@[simp] theorem rewindIf_busReads (s : State) (again : Bool) : (s.rewindIf again).busReads = s.busReads := by unfold rewindIf; split <;> rfl
@[simp] theorem rewindIf_trace (s : State) (again : Bool) : (s.rewindIf again).trace = s.trace := by unfold rewindIf; split <;> rfl
@[simp] theorem rewindIf_memRead (s : State) (again : Bool) (x : Word) : (s.rewindIf again).memRead x = s.memRead x := by simp [memRead]

/-! ## `memWrite16` -/

@[simp] theorem memWrite16_main (s : State) (a w : Word) : (s.memWrite16 a w).main = s.main := by simp [memWrite16]
@[simp] theorem memWrite16_shadow (s : State) (a w : Word) : (s.memWrite16 a w).shadow = s.shadow := by simp [memWrite16]
@[simp] theorem memWrite16_ix (s : State) (a w : Word) : (s.memWrite16 a w).ix = s.ix := by simp [memWrite16]
@[simp] theorem memWrite16_iy (s : State) (a w : Word) : (s.memWrite16 a w).iy = s.iy := by simp [memWrite16]
@[simp] theorem memWrite16_sp (s : State) (a w : Word) : (s.memWrite16 a w).sp = s.sp := by simp [memWrite16]
@[simp] theorem memWrite16_pc (s : State) (a w : Word) : (s.memWrite16 a w).pc = s.pc := by simp [memWrite16]
@[simp] theorem memWrite16_i (s : State) (a w : Word) : (s.memWrite16 a w).i = s.i := by simp [memWrite16]
@[simp] theorem memWrite16_r (s : State) (a w : Word) : (s.memWrite16 a w).r = s.r := by simp [memWrite16]
@[simp] theorem memWrite16_iff1 (s : State) (a w : Word) : (s.memWrite16 a w).iff1 = s.iff1 := by simp [memWrite16]
@[simp] theorem memWrite16_iff2 (s : State) (a w : Word) : (s.memWrite16 a w).iff2 = s.iff2 := by simp [memWrite16]
@[simp] theorem memWrite16_im (s : State) (a w : Word) : (s.memWrite16 a w).im = s.im := by simp [memWrite16]
@[simp] theorem memWrite16_halt (s : State) (a w : Word) : (s.memWrite16 a w).halt = s.halt := by simp [memWrite16]
@[simp] theorem memWrite16_eiDelay (s : State) (a w : Word) : (s.memWrite16 a w).eiDelay = s.eiDelay := by simp [memWrite16]
@[simp] theorem memWrite16_intPending (s : State) (a w : Word) : (s.memWrite16 a w).intPending = s.intPending := by simp [memWrite16]
@[simp] theorem memWrite16_nmiPending (s : State) (a w : Word) : (s.memWrite16 a w).nmiPending = s.nmiPending := by simp [memWrite16]
@[simp] theorem memWrite16_memorySelect (s : State) (a w : Word) : (s.memWrite16 a w).memorySelect = s.memorySelect := by simp [memWrite16]
@[simp] theorem memWrite16_is128 (s : State) (a w : Word) : (s.memWrite16 a w).is128 = s.is128 := by simp [memWrite16]
@[simp] theorem memWrite16_t (s : State) (a w : Word) : (s.memWrite16 a w).t = s.t := by simp [memWrite16]
@[simp] theorem memWrite16_border (s : State) (a w : Word) : (s.memWrite16 a w).border = s.border := by simp [memWrite16]
@[simp] theorem memWrite16_rom (s : State) (a w : Word) : (s.memWrite16 a w).rom = s.rom := by simp [memWrite16]
@[simp] theorem memWrite16_params (s : State) (a w : Word) : (s.memWrite16 a w).params = s.params := by simp [memWrite16]
@[simp] theorem memWrite16_portAnswers (s : State) (a w : Word) : (s.memWrite16 a w).portAnswers = s.portAnswers := by simp [memWrite16]
@[simp] theorem memWrite16_portReads (s : State) (a w : Word) : (s.memWrite16 a w).portReads = s.portReads := by simp [memWrite16]
@[simp] theorem memWrite16_busAnswers (s : State) (a w : Word) : (s.memWrite16 a w).busAnswers = s.busAnswers := by simp [memWrite16]
@[simp] theorem memWrite16_busReads (s : State) (a w : Word) : (s.memWrite16 a w).busReads = s.busReads := by simp [memWrite16]
@[simp] theorem memWrite16_trace (s : State) (a w : Word) : (s.memWrite16 a w).trace = s.trace := by simp [memWrite16]

/-! ## `push16` -/

@[simp] theorem push16_main (s : State) (w : Word) : (s.push16 w).main = s.main := by simp [push16]
@[simp] theorem push16_shadow (s : State) (w : Word) : (s.push16 w).shadow = s.shadow := by simp [push16]
@[simp] theorem push16_ix (s : State) (w : Word) : (s.push16 w).ix = s.ix := by simp [push16]
@[simp] theorem push16_iy (s : State) (w : Word) : (s.push16 w).iy = s.iy := by simp [push16]
@[simp] theorem push16_pc (s : State) (w : Word) : (s.push16 w).pc = s.pc := by simp [push16]
@[simp] theorem push16_i (s : State) (w : Word) : (s.push16 w).i = s.i := by simp [push16]
@[simp] theorem push16_r (s : State) (w : Word) : (s.push16 w).r = s.r := by simp [push16]
@[simp] theorem push16_iff1 (s : State) (w : Word) : (s.push16 w).iff1 = s.iff1 := by simp [push16]
@[simp] theorem push16_iff2 (s : State) (w : Word) : (s.push16 w).iff2 = s.iff2 := by simp [push16]
@[simp] theorem push16_im (s : State) (w : Word) : (s.push16 w).im = s.im := by simp [push16]
@[simp] theorem push16_halt (s : State) (w : Word) : (s.push16 w).halt = s.halt := by simp [push16]
@[simp] theorem push16_eiDelay (s : State) (w : Word) : (s.push16 w).eiDelay = s.eiDelay := by simp [push16]
@[simp] theorem push16_intPending (s : State) (w : Word) : (s.push16 w).intPending = s.intPending := by simp [push16]
@[simp] theorem push16_nmiPending (s : State) (w : Word) : (s.push16 w).nmiPending = s.nmiPending := by simp [push16]
@[simp] theorem push16_memorySelect (s : State) (w : Word) : (s.push16 w).memorySelect = s.memorySelect := by simp [push16]
@[simp] theorem push16_is128 (s : State) (w : Word) : (s.push16 w).is128 = s.is128 := by simp [push16]
@[simp] theorem push16_t (s : State) (w : Word) : (s.push16 w).t = s.t := by simp [push16]
@[simp] theorem push16_border (s : State) (w : Word) : (s.push16 w).border = s.border := by simp [push16]
@[simp] theorem push16_rom (s : State) (w : Word) : (s.push16 w).rom = s.rom := by simp [push16]
@[simp] theorem push16_params (s : State) (w : Word) : (s.push16 w).params = s.params := by simp [push16]
@[simp] theorem push16_portAnswers (s : State) (w : Word) : (s.push16 w).portAnswers = s.portAnswers := by simp [push16]
@[simp] theorem push16_portReads (s : State) (w : Word) : (s.push16 w).portReads = s.portReads := by simp [push16]
@[simp] theorem push16_busAnswers (s : State) (w : Word) : (s.push16 w).busAnswers = s.busAnswers := by simp [push16]
@[simp] theorem push16_busReads (s : State) (w : Word) : (s.push16 w).busReads = s.busReads := by simp [push16]
@[simp] theorem push16_trace (s : State) (w : Word) : (s.push16 w).trace = s.trace := by simp [push16]

/-! ## `dropTop` -/

@[simp] theorem dropTop_main (s : State) : (s.dropTop).main = s.main := by simp [dropTop]
@[simp] theorem dropTop_shadow (s : State) : (s.dropTop).shadow = s.shadow := by simp [dropTop]
@[simp] theorem dropTop_ix (s : State) : (s.dropTop).ix = s.ix := by simp [dropTop]
@[simp] theorem dropTop_iy (s : State) : (s.dropTop).iy = s.iy := by simp [dropTop]
@[simp] theorem dropTop_pc (s : State) : (s.dropTop).pc = s.pc := by simp [dropTop]
@[simp] theorem dropTop_i (s : State) : (s.dropTop).i = s.i := by simp [dropTop]
@[simp] theorem dropTop_r (s : State) : (s.dropTop).r = s.r := by simp [dropTop]
@[simp] theorem dropTop_iff1 (s : State) : (s.dropTop).iff1 = s.iff1 := by simp [dropTop]
@[simp] theorem dropTop_iff2 (s : State) : (s.dropTop).iff2 = s.iff2 := by simp [dropTop]
@[simp] theorem dropTop_im (s : State) : (s.dropTop).im = s.im := by simp [dropTop]
@[simp] theorem dropTop_halt (s : State) : (s.dropTop).halt = s.halt := by simp [dropTop]
@[simp] theorem dropTop_eiDelay (s : State) : (s.dropTop).eiDelay = s.eiDelay := by simp [dropTop]
@[simp] theorem dropTop_intPending (s : State) : (s.dropTop).intPending = s.intPending := by simp [dropTop]
@[simp] theorem dropTop_nmiPending (s : State) : (s.dropTop).nmiPending = s.nmiPending := by simp [dropTop]
@[simp] theorem dropTop_memorySelect (s : State) : (s.dropTop).memorySelect = s.memorySelect := by simp [dropTop]
@[simp] theorem dropTop_is128 (s : State) : (s.dropTop).is128 = s.is128 := by simp [dropTop]
@[simp] theorem dropTop_t (s : State) : (s.dropTop).t = s.t := by simp [dropTop]
@[simp] theorem dropTop_border (s : State) : (s.dropTop).border = s.border := by simp [dropTop]
@[simp] theorem dropTop_ram (s : State) : (s.dropTop).ram = s.ram := by simp [dropTop]
@[simp] theorem dropTop_rom (s : State) : (s.dropTop).rom = s.rom := by simp [dropTop]
@[simp] theorem dropTop_params (s : State) : (s.dropTop).params = s.params := by simp [dropTop]
@[simp] theorem dropTop_portAnswers (s : State) : (s.dropTop).portAnswers = s.portAnswers := by simp [dropTop]
@[simp] theorem dropTop_portReads (s : State) : (s.dropTop).portReads = s.portReads := by simp [dropTop]
@[simp] theorem dropTop_busAnswers (s : State) : (s.dropTop).busAnswers = s.busAnswers := by simp [dropTop]
@[simp] theorem dropTop_busReads (s : State) : (s.dropTop).busReads = s.busReads := by simp [dropTop]
@[simp] theorem dropTop_trace (s : State) : (s.dropTop).trace = s.trace := by simp [dropTop]
@[simp] theorem dropTop_memRead (s : State) (x : Word) : (s.dropTop).memRead x = s.memRead x := by simp [memRead]

/-! ## `exchangeTop` -/

@[simp] theorem exchangeTop_main (s : State) (w : Word) : (s.exchangeTop w).main = s.main := by simp [exchangeTop]
@[simp] theorem exchangeTop_shadow (s : State) (w : Word) : (s.exchangeTop w).shadow = s.shadow := by simp [exchangeTop]
@[simp] theorem exchangeTop_ix (s : State) (w : Word) : (s.exchangeTop w).ix = s.ix := by simp [exchangeTop]
@[simp] theorem exchangeTop_iy (s : State) (w : Word) : (s.exchangeTop w).iy = s.iy := by simp [exchangeTop]
@[simp] theorem exchangeTop_sp (s : State) (w : Word) : (s.exchangeTop w).sp = s.sp := by simp [exchangeTop]
@[simp] theorem exchangeTop_pc (s : State) (w : Word) : (s.exchangeTop w).pc = s.pc := by simp [exchangeTop]
@[simp] theorem exchangeTop_i (s : State) (w : Word) : (s.exchangeTop w).i = s.i := by simp [exchangeTop]
@[simp] theorem exchangeTop_r (s : State) (w : Word) : (s.exchangeTop w).r = s.r := by simp [exchangeTop]
@[simp] theorem exchangeTop_iff1 (s : State) (w : Word) : (s.exchangeTop w).iff1 = s.iff1 := by simp [exchangeTop]
@[simp] theorem exchangeTop_iff2 (s : State) (w : Word) : (s.exchangeTop w).iff2 = s.iff2 := by simp [exchangeTop]
@[simp] theorem exchangeTop_im (s : State) (w : Word) : (s.exchangeTop w).im = s.im := by simp [exchangeTop]
@[simp] theorem exchangeTop_halt (s : State) (w : Word) : (s.exchangeTop w).halt = s.halt := by simp [exchangeTop]
@[simp] theorem exchangeTop_eiDelay (s : State) (w : Word) : (s.exchangeTop w).eiDelay = s.eiDelay := by simp [exchangeTop]
@[simp] theorem exchangeTop_intPending (s : State) (w : Word) : (s.exchangeTop w).intPending = s.intPending := by simp [exchangeTop]
@[simp] theorem exchangeTop_nmiPending (s : State) (w : Word) : (s.exchangeTop w).nmiPending = s.nmiPending := by simp [exchangeTop]
@[simp] theorem exchangeTop_memorySelect (s : State) (w : Word) : (s.exchangeTop w).memorySelect = s.memorySelect := by simp [exchangeTop]
@[simp] theorem exchangeTop_is128 (s : State) (w : Word) : (s.exchangeTop w).is128 = s.is128 := by simp [exchangeTop]
@[simp] theorem exchangeTop_t (s : State) (w : Word) : (s.exchangeTop w).t = s.t := by simp [exchangeTop]
@[simp] theorem exchangeTop_border (s : State) (w : Word) : (s.exchangeTop w).border = s.border := by simp [exchangeTop]
@[simp] theorem exchangeTop_rom (s : State) (w : Word) : (s.exchangeTop w).rom = s.rom := by simp [exchangeTop]
@[simp] theorem exchangeTop_params (s : State) (w : Word) : (s.exchangeTop w).params = s.params := by simp [exchangeTop]
@[simp] theorem exchangeTop_portAnswers (s : State) (w : Word) : (s.exchangeTop w).portAnswers = s.portAnswers := by simp [exchangeTop]
@[simp] theorem exchangeTop_portReads (s : State) (w : Word) : (s.exchangeTop w).portReads = s.portReads := by simp [exchangeTop]
@[simp] theorem exchangeTop_busAnswers (s : State) (w : Word) : (s.exchangeTop w).busAnswers = s.busAnswers := by simp [exchangeTop]
@[simp] theorem exchangeTop_busReads (s : State) (w : Word) : (s.exchangeTop w).busReads = s.busReads := by simp [exchangeTop]
@[simp] theorem exchangeTop_trace (s : State) (w : Word) : (s.exchangeTop w).trace = s.trace := by simp [exchangeTop]

/-! ## `call` -/

@[simp] theorem call_main (s : State) (w : Word) : (s.call w).main = s.main := by simp [call]
@[simp] theorem call_shadow (s : State) (w : Word) : (s.call w).shadow = s.shadow := by simp [call]
@[simp] theorem call_ix (s : State) (w : Word) : (s.call w).ix = s.ix := by simp [call]
@[simp] theorem call_iy (s : State) (w : Word) : (s.call w).iy = s.iy := by simp [call]
@[simp] theorem call_i (s : State) (w : Word) : (s.call w).i = s.i := by simp [call]
@[simp] theorem call_r (s : State) (w : Word) : (s.call w).r = s.r := by simp [call]
@[simp] theorem call_iff1 (s : State) (w : Word) : (s.call w).iff1 = s.iff1 := by simp [call]
@[simp] theorem call_iff2 (s : State) (w : Word) : (s.call w).iff2 = s.iff2 := by simp [call]
@[simp] theorem call_im (s : State) (w : Word) : (s.call w).im = s.im := by simp [call]
@[simp] theorem call_halt (s : State) (w : Word) : (s.call w).halt = s.halt := by simp [call]
@[simp] theorem call_eiDelay (s : State) (w : Word) : (s.call w).eiDelay = s.eiDelay := by simp [call]
@[simp] theorem call_intPending (s : State) (w : Word) : (s.call w).intPending = s.intPending := by simp [call]
@[simp] theorem call_nmiPending (s : State) (w : Word) : (s.call w).nmiPending = s.nmiPending := by simp [call]
@[simp] theorem call_memorySelect (s : State) (w : Word) : (s.call w).memorySelect = s.memorySelect := by simp [call]
@[simp] theorem call_is128 (s : State) (w : Word) : (s.call w).is128 = s.is128 := by simp [call]
@[simp] theorem call_t (s : State) (w : Word) : (s.call w).t = s.t := by simp [call]
@[simp] theorem call_border (s : State) (w : Word) : (s.call w).border = s.border := by simp [call]
@[simp] theorem call_rom (s : State) (w : Word) : (s.call w).rom = s.rom := by simp [call]
@[simp] theorem call_params (s : State) (w : Word) : (s.call w).params = s.params := by simp [call]
@[simp] theorem call_portAnswers (s : State) (w : Word) : (s.call w).portAnswers = s.portAnswers := by simp [call]
@[simp] theorem call_portReads (s : State) (w : Word) : (s.call w).portReads = s.portReads := by simp [call]
@[simp] theorem call_busAnswers (s : State) (w : Word) : (s.call w).busAnswers = s.busAnswers := by simp [call]
@[simp] theorem call_busReads (s : State) (w : Word) : (s.call w).busReads = s.busReads := by simp [call]
@[simp] theorem call_trace (s : State) (w : Word) : (s.call w).trace = s.trace := by simp [call]

/-! ## `jumpRelative` -/

@[simp] theorem jumpRelative_main (s : State) (e : Byte) : (s.jumpRelative e).main = s.main := by simp [jumpRelative]
@[simp] theorem jumpRelative_shadow (s : State) (e : Byte) : (s.jumpRelative e).shadow = s.shadow := by simp [jumpRelative]
@[simp] theorem jumpRelative_ix (s : State) (e : Byte) : (s.jumpRelative e).ix = s.ix := by simp [jumpRelative]
@[simp] theorem jumpRelative_iy (s : State) (e : Byte) : (s.jumpRelative e).iy = s.iy := by simp [jumpRelative]
@[simp] theorem jumpRelative_sp (s : State) (e : Byte) : (s.jumpRelative e).sp = s.sp := by simp [jumpRelative]
@[simp] theorem jumpRelative_i (s : State) (e : Byte) : (s.jumpRelative e).i = s.i := by simp [jumpRelative]
@[simp] theorem jumpRelative_r (s : State) (e : Byte) : (s.jumpRelative e).r = s.r := by simp [jumpRelative]
@[simp] theorem jumpRelative_iff1 (s : State) (e : Byte) : (s.jumpRelative e).iff1 = s.iff1 := by simp [jumpRelative]
@[simp] theorem jumpRelative_iff2 (s : State) (e : Byte) : (s.jumpRelative e).iff2 = s.iff2 := by simp [jumpRelative]
@[simp] theorem jumpRelative_im (s : State) (e : Byte) : (s.jumpRelative e).im = s.im := by simp [jumpRelative]
@[simp] theorem jumpRelative_halt (s : State) (e : Byte) : (s.jumpRelative e).halt = s.halt := by simp [jumpRelative]
@[simp] theorem jumpRelative_eiDelay (s : State) (e : Byte) : (s.jumpRelative e).eiDelay = s.eiDelay := by simp [jumpRelative]
@[simp] theorem jumpRelative_intPending (s : State) (e : Byte) : (s.jumpRelative e).intPending = s.intPending := by simp [jumpRelative]
@[simp] theorem jumpRelative_nmiPending (s : State) (e : Byte) : (s.jumpRelative e).nmiPending = s.nmiPending := by simp [jumpRelative]
@[simp] theorem jumpRelative_memorySelect (s : State) (e : Byte) : (s.jumpRelative e).memorySelect = s.memorySelect := by simp [jumpRelative]
@[simp] theorem jumpRelative_is128 (s : State) (e : Byte) : (s.jumpRelative e).is128 = s.is128 := by simp [jumpRelative]
@[simp] theorem jumpRelative_t (s : State) (e : Byte) : (s.jumpRelative e).t = s.t := by simp [jumpRelative]
@[simp] theorem jumpRelative_border (s : State) (e : Byte) : (s.jumpRelative e).border = s.border := by simp [jumpRelative]
@[simp] theorem jumpRelative_ram (s : State) (e : Byte) : (s.jumpRelative e).ram = s.ram := by simp [jumpRelative]
@[simp] theorem jumpRelative_rom (s : State) (e : Byte) : (s.jumpRelative e).rom = s.rom := by simp [jumpRelative]
@[simp] theorem jumpRelative_params (s : State) (e : Byte) : (s.jumpRelative e).params = s.params := by simp [jumpRelative]
@[simp] theorem jumpRelative_portAnswers (s : State) (e : Byte) : (s.jumpRelative e).portAnswers = s.portAnswers := by simp [jumpRelative]
@[simp] theorem jumpRelative_portReads (s : State) (e : Byte) : (s.jumpRelative e).portReads = s.portReads := by simp [jumpRelative]
@[simp] theorem jumpRelative_busAnswers (s : State) (e : Byte) : (s.jumpRelative e).busAnswers = s.busAnswers := by simp [jumpRelative]
@[simp] theorem jumpRelative_busReads (s : State) (e : Byte) : (s.jumpRelative e).busReads = s.busReads := by simp [jumpRelative]
@[simp] theorem jumpRelative_trace (s : State) (e : Byte) : (s.jumpRelative e).trace = s.trace := by simp [jumpRelative]
@[simp] theorem jumpRelative_memRead (s : State) (e : Byte) (x : Word) : (s.jumpRelative e).memRead x = s.memRead x := by simp [memRead]

/-! ## The fields an update sets -/

@[simp] theorem setIndex_indexReg (s : State) (xy : XY) (w : Word) : (s.setIndex xy w).indexReg xy = w := by
  cases xy <;> rfl
@[simp] theorem push16_sp (s : State) (w : Word) : (s.push16 w).sp = s.sp - 2 := by simp [push16]
@[simp] theorem dropTop_sp (s : State) : s.dropTop.sp = s.sp + 2 := by simp [dropTop]
@[simp] theorem call_sp (s : State) (w : Word) : (s.call w).sp = s.sp - 2 := by simp [call]
@[simp] theorem call_pc (s : State) (w : Word) : (s.call w).pc = w := by simp [call]
@[simp] theorem jumpRelative_pc (s : State) (e : Byte) : (s.jumpRelative e).pc = s.pc + sext8 e := by simp [jumpRelative]
@[simp] theorem rewindIf_pc (s : State) (again : Bool) :
    (s.rewindIf again).pc = if again then s.pc - 2 else s.pc := by unfold rewindIf; split <;> rfl
@[simp] theorem setPaging_memorySelect (s : State) (b : Byte) :
    (s.setPaging b).memorySelect = if pagingLock s.memorySelect then s.memorySelect else b := by
  unfold setPaging; split <;> rfl

end Sys2Proof.Machine.State
end

