-- ==== Sys2Proof/Laws/Ops.lean ====
section
/-! SUPPORT. What each shared operation does, once: reads after stores through the memory map, and the frame of every named
update, which compose by `Frame.trans`. -/

namespace Sys2Proof.Machine

/-! ## Reads after stores -/

theorem ramKey_eq (ms : Byte) (a : Word) :
    ramKey ms a = match route ms a with
      | .rom _ _ => none
      | .ram p o => some (pageKey p.toNat o.toNat) := rfl

/-- The routing function by ranges of addresses (rule R71). -/
theorem route_eq (ms : Byte) (a : Word) :
    route ms a =
      if a.toNat < 0x4000 then .rom (romSelect ms) (a.extractLsb' 0 14)
      else if a.toNat < 0x8000 then .ram 5 (a.extractLsb' 0 14)
      else if a.toNat < 0xC000 then .ram 2 (a.extractLsb' 0 14)
      else .ram (ramBank ms) (a.extractLsb' 0 14) := by
  have := a.isLt
  have e : (a.extractLsb' 14 2).toNat = a.toNat / 16384 := by
    simp [BitVec.extractLsb'_toNat, Nat.shiftRight_eq_div_pow]; omega
  unfold route
  simp only [e]
  by_cases h1 : a.toNat < 0x4000
  · rw [show a.toNat / 16384 = 0 by omega, if_pos h1]; rfl
  by_cases h2 : a.toNat < 0x8000
  · rw [show a.toNat / 16384 = 1 by omega, if_neg h1, if_pos h2]; rfl
  by_cases h3 : a.toNat < 0xC000
  · rw [show a.toNat / 16384 = 2 by omega, if_neg h1, if_neg h2, if_pos h3]; rfl
  · rw [show a.toNat / 16384 = 3 by omega, if_neg h1, if_neg h2, if_neg h3]; rfl

/-- The offset of an address in its page (rule R71). -/
theorem toNat_offset (a : Word) : (a.extractLsb' 0 14 : BitVec 14).toNat = a.toNat % 16384 := by
  simp [BitVec.extractLsb'_toNat]

/-- The addresses from 0x4000 on are routed to RAM. -/
theorem ramKey_isSome (ms : Byte) (a : Word) : (ramKey ms a).isSome = true ↔ 0x4000 ≤ a.toNat := by
  unfold ramKey route
  simp only
  have := a.isLt
  have e : (a.extractLsb' 14 2).toNat = a.toNat / 16384 := by
    simp [BitVec.extractLsb'_toNat, Nat.shiftRight_eq_div_pow]; omega
  rw [e]
  split
  · next h => split at h <;> simp_all
  · next h => split at h <;> simp_all <;> omega

/-- R increments (rule R36). -/
theorem incR_countR (s : State) (n : Nat) : (s.incR n).r = countR s.r n := by
  simp only [State.incR, countR, ← BitVec.ofNat_add_ofNat]
  simp

/-- A store changes the one byte of RAM its address is routed to, and none in a ROM page (rule R77). -/
theorem State.memWrite_read (s : State) (a : Word) (v : Byte) (k : Nat) :
    (s.memWrite a v).ram.read k = if ramKey s.memorySelect a = some k then v else s.ram.read k := by
  unfold memWrite
  rw [ramKey_eq]
  cases route s.memorySelect a with
  | rom p o => simp
  | ram p o => simp [Memory.read_write, eq_comm]

theorem State.memRead_eq (s : State) (a : Word) :
    s.memRead a = match route s.memorySelect a with
      | .rom p o => s.rom.read (pageKey p.toNat o.toNat)
      | .ram p o => s.ram.read (pageKey p.toNat o.toNat) := rfl

theorem ramKey_of_rom {ms : Byte} {a : Word} {p o} (h : route ms a = .rom p o) : ramKey ms a = none := by
  rw [ramKey_eq, h]

theorem ramKey_of_ram {ms : Byte} {a : Word} {p o} (h : route ms a = .ram p o) :
    ramKey ms a = some (pageKey p.toNat o.toNat) := by
  rw [ramKey_eq, h]

/-- A store through an address routed to RAM (rule R77). -/
theorem onlyByteWritten_memWrite {s : State} {a : Word} {p o} (h : route s.memorySelect a = .ram p o) (v : Byte) :
    OnlyByteWritten s (s.memWrite a v) (pageKey p.toNat o.toNat) v := by
  unfold OnlyByteWritten State.memWrite
  rw [h]
  exact ⟨rfl, fun k => by simp [Memory.read_write]⟩

/-- A read after a store (rules R76, R77, R85). -/
theorem State.memRead_memWrite (s : State) (a : Word) (v : Byte) (b : Word) :
    (s.memWrite a v).memRead b =
      if route s.memorySelect b = route s.memorySelect a ∧ (ramKey s.memorySelect a).isSome then v else s.memRead b := by
  rw [memRead_eq, memRead_eq, memWrite_memorySelect, memWrite_rom]
  by_cases h : route s.memorySelect b = route s.memorySelect a
  · rw [h]
    cases ha : route s.memorySelect a with
    | rom p o => rw [ramKey_of_rom ha, if_neg (by simp)]
    | ram p o => simp only; rw [memWrite_read, ramKey_of_ram ha, if_pos rfl, if_pos ⟨trivial, rfl⟩]
  · rw [if_neg fun e => h e.1]
    cases hb : route s.memorySelect b with
    | rom p o => rfl
    | ram p o =>
      simp only
      rw [memWrite_read, if_neg fun e => h (route_eq_of_ramKey (ramKey_of_ram hb) e)]

theorem State.memRead_memWrite_ne {s : State} {a b : Word} (h : route s.memorySelect b ≠ route s.memorySelect a)
    (v : Byte) : (s.memWrite a v).memRead b = s.memRead b := by
  rw [memRead_memWrite, if_neg (fun e => h e.1)]

theorem stored_memWrite (s : State) (a : Word) (v : Byte) : Stored s (s.memWrite a v) a v := by
  rw [Stored, State.memRead_memWrite]; simp

/-- Two addresses with different offsets in their pages are two places. -/
theorem route_ne_of_off {ms : Byte} {a b : Word} (h : a.extractLsb' 0 14 ≠ b.extractLsb' 0 14) :
    route ms a ≠ route ms b := by
  intro e
  apply h
  unfold route at e
  simp only at e
  split at e <;> split at e <;> simp_all

/-- Consecutive addresses are two places. -/
theorem route_succ_ne (ms : Byte) (a : Word) : route ms (a + 1) ≠ route ms a := by
  apply route_ne_of_off
  intro e
  have := congrArg BitVec.toNat e
  simp [BitVec.extractLsb'_toNat] at this
  omega

/-! ## Frames -/

theorem Frame.refl (s : State) : Frame s s [] [] :=
  ⟨fun _ _ => rfl, ⟨rfl, rfl, rfl, rfl, rfl, rfl, rfl⟩, ⟨rfl, rfl, rfl, rfl, rfl⟩, ⟨rfl, rfl, rfl, rfl, rfl⟩, rfl,
    fun _ _ => rfl, fun _ _ => rfl⟩

theorem Frame.mono {s t : State} {R R' : List Register} {S S' : List Word} (h : Frame s t R S) (hR : R ⊆ R') (hS : S ⊆ S') :
    Frame s t R' S' :=
  ⟨fun q hq => h.registers q fun h' => hq (hR h'), h.interrupts, h.machine, h.host, h.rom,
    fun k hk => h.ram k fun a ha => hk a (hS ha), fun a ha => h.reads a fun b hb => ha b (hS hb)⟩

theorem Frame.trans {s t u : State} {R R' : List Register} {S S' : List Word} (h : Frame s t R S) (h' : Frame t u R' S') :
    Frame s u (R ++ R') (S ++ S') := by
  have hm : t.memorySelect = s.memorySelect := h.machine.1
  refine ⟨fun q hq => ?_, ?_, ?_, ?_, h'.rom.trans h.rom, fun k hk => ?_, fun a ha => ?_⟩
  · simp only [List.mem_append, not_or] at hq
    rw [h'.registers q hq.2, h.registers q hq.1]
  · simp [h'.interrupts, h.interrupts]
  · simp [h'.machine, h.machine]
  · simp [h'.host, h.host]
  · rw [h'.ram k fun a ha => by rw [hm]; exact hk a (by simp [ha]), h.ram k fun a ha => hk a (by simp [ha])]
  · rw [h'.reads a fun b hb => by rw [hm]; exact ha b (by simp [hb]), h.reads a fun b hb => ha b (by simp [hb])]

/-- A frame with more in its lists. -/
theorem Frame.trans_of {s t u : State} {R R' R'' : List Register} {S S' S'' : List Word} (h : Frame s t R S)
    (h' : Frame t u R' S') (hR : R ++ R' ⊆ R'') (hS : S ++ S' ⊆ S'') : Frame s u R'' S'' :=
  (h.trans h').mono hR hS

/-- A state that differs from `s` in registers only. -/
theorem frame_of_registers {s t : State} {R : List Register} (hr : ∀ q, q ∉ R → t.register q = s.register q)
    (h : { t with main := s.main, shadow := s.shadow, ix := s.ix, iy := s.iy, sp := s.sp, pc := s.pc, i := s.i, r := s.r } = s) :
    Frame s t R [] := by
  cases s; cases t
  simp only [State.mk.injEq] at h
  constructor <;> simp_all [State.memRead]

theorem frame_setA (s : State) (v : Byte) : Frame s (s.setA v) [.a] [] :=
  frame_of_registers (fun q hq => by cases q <;> first | rfl | simp at hq) rfl

theorem frame_setF (s : State) (v : Byte) : Frame s (s.setF v) [.f] [] :=
  frame_of_registers (fun q hq => by cases q <;> first | rfl | simp at hq) rfl

theorem frame_setB (s : State) (v : Byte) : Frame s (s.setB v) [.b] [] :=
  frame_of_registers (fun q hq => by cases q <;> first | rfl | simp at hq) rfl

theorem frame_setReg8 (s : State) (q : Reg8) (v : Byte) : Frame s (s.setReg8 q v) [q.name] [] :=
  frame_of_registers (fun x hx => by cases q <;> cases x <;> first | rfl | simp [Reg8.name] at hx) rfl

theorem frame_setBC (s : State) (w : Word) : Frame s (s.setBC w) [.b, .c] [] :=
  frame_of_registers (fun q hq => by cases q <;> first | rfl | simp at hq) rfl

theorem frame_setDE (s : State) (w : Word) : Frame s (s.setDE w) [.d, .e] [] :=
  frame_of_registers (fun q hq => by cases q <;> first | rfl | simp at hq) rfl

theorem frame_setHL (s : State) (w : Word) : Frame s (s.setHL w) [.h, .l] [] :=
  frame_of_registers (fun q hq => by cases q <;> first | rfl | simp at hq) rfl

theorem frame_setSP (s : State) (w : Word) : Frame s (s.setSP w) [.sp] [] :=
  frame_of_registers (fun q hq => by cases q <;> first | rfl | simp at hq) rfl

theorem frame_setPC (s : State) (w : Word) : Frame s (s.setPC w) [.pc] [] :=
  frame_of_registers (fun q hq => by cases q <;> first | rfl | simp at hq) rfl

theorem frame_setI (s : State) (v : Byte) : Frame s (s.setI v) [.i] [] :=
  frame_of_registers (fun q hq => by cases q <;> first | rfl | simp at hq) rfl

theorem frame_setR (s : State) (v : Byte) : Frame s (s.setR v) [.r] [] :=
  frame_of_registers (fun q hq => by cases q <;> first | rfl | simp at hq) rfl

theorem frame_setIndex (s : State) (xy : XY) (w : Word) : Frame s (s.setIndex xy w) xy.name.names [] :=
  frame_of_registers (fun q hq => by cases xy <;> cases q <;> first | rfl | simp [XY.name, WordReg.names] at hq)
    (by cases xy <;> rfl)

theorem frame_setDD (s : State) (dd : PairDD) (w : Word) : Frame s (s.setDD dd w) dd.name.names [] := by
  cases dd
  · exact frame_setBC s w
  · exact frame_setDE s w
  · exact frame_setHL s w
  · exact frame_setSP s w

@[simp] theorem setHalf_half (s : State) (xy : XY) (p : Half) (v : Byte) : (s.setHalf xy p v).half xy p = v := by
  cases xy <;> cases p <;> simp [State.setHalf, State.half, State.setIndex, State.indexReg]

theorem setHalf_registers (s : State) (xy : XY) (p : Half) (v : Byte) (q : Register) :
    (s.setHalf xy p v).register q = if q = p.name xy then v.toNat else s.register q := by
  cases xy <;> cases p <;> cases q <;>
    simp [State.setHalf, State.half, State.setIndex, State.indexReg, State.register, Half.name]

theorem frame_setHalf (s : State) (xy : XY) (p : Half) (v : Byte) : Frame s (s.setHalf xy p v) [p.name xy] [] :=
  frame_of_registers (fun q hq => by rw [setHalf_registers, if_neg (by simpa using hq)])
    (by cases xy <;> cases p <;> rfl)

theorem setReg8_registers (s : State) (q : Reg8) (v : Byte) (x : Register) :
    (s.setReg8 q v).register x = if x = q.name then v.toNat else s.register x := by
  cases q <;> cases x <;> rfl

theorem setPReg_registers (s : State) (xy : XY) (p : PReg) (v : Byte) (q : Register) :
    (s.setPReg xy p v).register q = if q = p.name xy then v.toNat else s.register q := by
  cases p
  case xyh => exact setHalf_registers s xy .high v q
  case xyl => exact setHalf_registers s xy .low v q
  all_goals exact setReg8_registers s _ v q

theorem frame_setPReg (s : State) (xy : XY) (p : PReg) (v : Byte) : Frame s (s.setPReg xy p v) [p.name xy] [] := by
  cases p
  case xyh => exact frame_setHalf s xy .high v
  case xyl => exact frame_setHalf s xy .low v
  all_goals exact frame_setReg8 s _ v

theorem frame_memWrite (s : State) (a : Word) (v : Byte) : Frame s (s.memWrite a v) [] [a] := by
  refine ⟨fun q _ => ?_, by simp, by simp, by simp, by simp, fun k hk => ?_, fun b hb => ?_⟩
  · cases q <;> simp [State.register]
  · rw [State.memWrite_read, if_neg (hk a (by simp))]
  · exact State.memRead_memWrite_ne (hb a (by simp)) v

/-- A word store stores its two bytes, and nothing else. -/
theorem frame_memWrite16 (s : State) (a w : Word) : Frame s (s.memWrite16 a w) [] [a, a + 1] :=
  (frame_memWrite s a (lo8 w)).trans (frame_memWrite _ (a + 1) (hi8 w))

theorem stored_memWrite16 (s : State) (a w : Word) :
    Stored s (s.memWrite16 a w) a (lo8 w) ∧ Stored s (s.memWrite16 a w) (a + 1) (hi8 w) := by
  have h := route_succ_ne s.memorySelect a
  constructor
  · simp only [Stored, State.memWrite16]
    rw [State.memRead_memWrite_ne (by simpa using h.symm)]
    exact stored_memWrite s a (lo8 w)
  · have e := stored_memWrite (s.memWrite a (lo8 w)) (a + 1) (hi8 w)
    rw [Stored, State.memWrite_memorySelect, State.memRead_memWrite_ne h] at e
    exact e

/-- `push16`: SP, and the two bytes below it (rule R14). -/
theorem frame_push16 (s : State) (w : Word) : Frame s (s.push16 w) [.sp] [s.sp - 1, s.sp - 2] :=
  ((frame_memWrite s (s.sp - 1) (hi8 w)).trans (frame_memWrite _ (s.sp - 2) (lo8 w))).trans (frame_setSP _ (s.sp - 2))

theorem stored_push16 (s : State) (w : Word) :
    Stored s (s.push16 w) (s.sp - 1) (hi8 w) ∧ Stored s (s.push16 w) (s.sp - 2) (lo8 w) := by
  have h : route s.memorySelect (s.sp - 1) ≠ route s.memorySelect (s.sp - 2) := by
    have := route_succ_ne s.memorySelect (s.sp - 2)
    rwa [show s.sp - 2 + 1 = s.sp - 1 by bv_omega] at this
  constructor
  · simp only [Stored, State.push16, State.setSP_memRead]
    rw [State.memRead_memWrite_ne (by simpa using h)]
    exact stored_memWrite s (s.sp - 1) (hi8 w)
  · have e := stored_memWrite (s.memWrite (s.sp - 1) (hi8 w)) (s.sp - 2) (lo8 w)
    rw [Stored, State.memWrite_memorySelect, State.memRead_memWrite_ne (Ne.symm h)] at e
    exact e

theorem frame_dropTop (s : State) : Frame s s.dropTop [.sp] [] := frame_setSP s (s.sp + 2)

theorem frame_rewindIf (s : State) (again : Bool) : Frame s (s.rewindIf again) [.pc] [] := by
  unfold State.rewindIf
  split
  · exact frame_setPC s (s.pc - 2)
  · exact (Frame.refl s).mono (by simp) (by simp)

/-- `CALL` and `RST`: SP, PC and the two bytes of the return address. -/
theorem frame_call (s : State) (w : Word) : Frame s (s.call w) [.sp, .pc] [s.sp - 1, s.sp - 2] :=
  (frame_push16 s s.pc).trans (frame_setPC _ w)

theorem stored_call (s : State) (w : Word) :
    Stored s (s.call w) (s.sp - 1) (hi8 s.pc) ∧ Stored s (s.call w) (s.sp - 2) (lo8 s.pc) := stored_push16 s s.pc

end Sys2Proof.Machine
end

