-- ==== Sys2Proof/Laws/Effect.lean ====
section
/-! SUPPORT. What executing an instruction, or a slot, can do to the machine, once: a sequence of register updates, stores
and paging bytes. -/

namespace Sys2Proof.Machine

/-- `t` is `s` but for CPU registers, latches, T and host-side fields. -/
structure SameMachine (s t : State) : Prop where
  ram : t.ram = s.ram
  rom : t.rom = s.rom
  paging : t.memorySelect = s.memorySelect
  is128 : t.is128 = s.is128
  params : t.params = s.params

/-- `t` comes from `s` by register updates, byte stores and paging bytes. -/
inductive Reaches (s : State) : State → Prop where
  | refl : Reaches s s
  | cpu {t u : State} (h : Reaches s t) (e : SameMachine t u) : Reaches s u
  | store {t : State} (h : Reaches s t) (a : Word) (v : Byte) : Reaches s (t.memWrite a v)
  | page {t : State} (h : Reaches s t) (b : Byte) : Reaches s (t.setPaging b)

theorem Reaches.trans {s t u : State} (h : Reaches s t) (h' : Reaches t u) : Reaches s u := by
  induction h' with
  | refl => exact h
  | cpu _ e ih => exact .cpu ih e
  | store _ a v ih => exact .store ih a v
  | page _ b ih => exact .page ih b

theorem reaches_cpu {s t : State} (e : SameMachine s t) : Reaches s t := .cpu .refl e
theorem reaches_store (s : State) (a : Word) (v : Byte) : Reaches s (s.memWrite a v) := .store .refl a v

/-! ## The shared operations -/

theorem reaches_memWrite16 (s : State) (a w : Word) : Reaches s (s.memWrite16 a w) := .store (reaches_store s _ _) _ _

theorem reaches_push16 (s : State) (w : Word) : Reaches s (s.push16 w) :=
  .cpu (.store (reaches_store s _ _) _ _) ⟨rfl, rfl, rfl, rfl, rfl⟩

theorem reaches_call (s : State) (w : Word) : Reaches s (s.call w) := .cpu (reaches_push16 s _) ⟨rfl, rfl, rfl, rfl, rfl⟩

theorem reaches_exchangeTop (s : State) (w : Word) : Reaches s (s.exchangeTop w) := .store (reaches_store s _ _) _ _

theorem reaches_portIn (s : State) (lo hi : Byte) : Reaches s (s.portIn lo hi).state := reaches_cpu ⟨rfl, rfl, rfl, rfl, rfl⟩

theorem reaches_busByte (s : State) : Reaches s s.busByte.state := reaches_cpu ⟨rfl, rfl, rfl, rfl, rfl⟩

theorem reaches_portOut (s : State) (lo hi v : Byte) : Reaches s (s.portOut lo hi v) := by
  unfold State.portOut
  have h : Reaches s (if s.isPagingPort lo hi then s.setPaging v else s) := by
    split
    · exact .page .refl v
    · exact .refl
  refine .cpu h ?_
  dsimp only
  constructor <;> split <;> simp

theorem reaches_setReg8 (s : State) (r : Reg8) (v : Byte) : Reaches s (s.setReg8 r v) :=
  reaches_cpu ⟨rfl, rfl, rfl, rfl, rfl⟩

theorem reaches_into {w : Nat} {s : State} (x : Flagged w) {put : BitVec w → State} (h : Reaches s (put x.res)) :
    Reaches s (x.into put) := .cpu h ⟨rfl, rfl, rfl, rfl, rfl⟩

theorem reaches_rewindIf {s t : State} (h : Reaches s t) (again : Bool) : Reaches s (t.rewindIf again) :=
  .cpu h ⟨by simp, by simp, by simp, by simp, by simp⟩

theorem reaches_blockCopy (s : State) (d : Word) : Reaches s (s.blockCopy d) :=
  .cpu (reaches_store s s.de (s.memRead s.hl)) ⟨rfl, rfl, rfl, rfl, rfl⟩

theorem reaches_blockCompare (s : State) (d : Word) : Reaches s (s.blockCompare d) :=
  reaches_cpu ⟨rfl, rfl, rfl, rfl, rfl⟩

theorem reaches_blockIn (s : State) (d : Word) : Reaches s (s.blockIn d) :=
  .cpu (.store (reaches_portIn s s.main.c s.main.b) s.hl (s.portIn s.main.c s.main.b).value) ⟨rfl, rfl, rfl, rfl, rfl⟩

theorem reaches_blockOut (s : State) (d : Word) : Reaches s (s.blockOut d) :=
  .cpu (((reaches_cpu (s := s) (t := s.setB (s.main.b - 1)) ⟨rfl, rfl, rfl, rfl, rfl⟩)).trans (reaches_portOut _ _ _ _))
    ⟨rfl, rfl, rfl, rfl, rfl⟩

theorem reaches_writeMemCopy (s : State) (a : Word) (r : Reg8) (v : Byte) : Reaches s (s.writeMemCopy a r v) :=
  .cpu (reaches_store s a v) ⟨rfl, rfl, rfl, rfl, rfl⟩

theorem reaches_shiftMem (s : State) (o : ShiftOp) (a : Word) : Reaches s (s.shiftMem o a) :=
  reaches_into _ (reaches_store s a _)

theorem reaches_shiftMemCopy (s : State) (o : ShiftOp) (a : Word) (r : Reg8) : Reaches s (s.shiftMemCopy o a r) :=
  reaches_into _ (reaches_writeMemCopy s a r _)

theorem reaches_rotateDigitLeft (s : State) : Reaches s s.rotateDigitLeft :=
  .cpu (reaches_store s s.hl _) ⟨rfl, rfl, rfl, rfl, rfl⟩

theorem reaches_rotateDigitRight (s : State) : Reaches s s.rotateDigitRight :=
  .cpu (reaches_store s s.hl _) ⟨rfl, rfl, rfl, rfl, rfl⟩

theorem reaches_if {s t u : State} {c : Prop} [Decidable c] (ht : Reaches s t) (hu : Reaches s u) :
    Reaches s (if c then t else u) := by
  split
  · exact ht
  · exact hu

/-! ## Instructions and slots -/

/-- Executing an instruction whose lookup is finished. -/
theorem run_reaches : ∀ {i : Instr} {s t : State}, run i s = .next t → Reaches s t
  | .indexAgain _ i, _, _, h => run_reaches (i := i) h
  | .edAfterIndex _ i, _, _, h => run_reaches (i := i) h
  | .indexNoEffect _ i, _, _, h => run_reaches (i := i) h
  | i, s, t, h => by
    cases i
    case indexAgain xy i => exact run_reaches (i := i) h
    case edAfterIndex xy i => exact run_reaches (i := i) h
    case indexNoEffect xy i => exact run_reaches (i := i) h
    case prefixCB => cases h
    case prefixDD => cases h
    case prefixED => cases h
    case prefixFD => cases h
    case prefixCBAfterIndex => cases h
    case exSPHL => cases h; exact .cpu (reaches_exchangeTop s s.hl) ⟨by simp, by simp, by simp, by simp, by simp⟩
    case exSPXY xy =>
      cases h; exact .cpu (reaches_exchangeTop s (s.indexReg xy)) ⟨by simp, by simp, by simp, by simp, by simp⟩
    all_goals cases h
    all_goals first
      | with_reducible exact reaches_store _ _ _
      | with_reducible exact reaches_setReg8 _ _ _
      | with_reducible exact reaches_memWrite16 _ _ _
      | with_reducible exact reaches_push16 _ _
      | with_reducible exact reaches_call _ _
      | with_reducible exact reaches_shiftMem _ _ _
      | with_reducible exact reaches_shiftMemCopy _ _ _ _
      | with_reducible exact reaches_writeMemCopy _ _ _ _
      | with_reducible exact reaches_rotateDigitLeft _
      | with_reducible exact reaches_rotateDigitRight _
      | with_reducible exact reaches_blockCopy _ _
      | with_reducible exact reaches_blockCompare _ _
      | with_reducible exact reaches_blockIn _ _
      | with_reducible exact reaches_blockOut _ _
      | with_reducible exact reaches_portOut _ _ _ _
      | with_reducible exact reaches_rewindIf (reaches_blockCopy _ _) _
      | with_reducible exact reaches_rewindIf (reaches_blockCompare _ _) _
      | with_reducible exact reaches_rewindIf (reaches_blockIn _ _) _
      | with_reducible exact reaches_rewindIf (reaches_blockOut _ _) _
      | with_reducible exact reaches_into _ (reaches_store _ _ _)
      | with_reducible exact reaches_if (reaches_call _ _) .refl
      | (with_reducible refine reaches_if (reaches_cpu ⟨?_, ?_, ?_, ?_, ?_⟩) .refl) <;> simp
      | (with_reducible refine reaches_if (reaches_cpu ⟨?_, ?_, ?_, ?_, ?_⟩) (reaches_cpu ⟨?_, ?_, ?_, ?_, ?_⟩)) <;> simp
      | (with_reducible refine reaches_into _ (reaches_cpu ⟨?_, ?_, ?_, ?_, ?_⟩)) <;> simp
      | exact reaches_cpu ⟨rfl, rfl, rfl, rfl, rfl⟩
      | (refine reaches_cpu ⟨?_, ?_, ?_, ?_, ?_⟩) <;> simp

theorem reaches_fetched (s : State) (i : Instr) (n k : Nat) : Reaches s (s.fetched i n k) :=
  reaches_cpu ⟨rfl, rfl, rfl, rfl, rfl⟩

theorem resume_reaches {s t : State} {sofar : List Byte} {k : Nat} (h : s.resume sofar k = .next t) : Reaches s t := by
  unfold State.resume at h
  split at h
  · exact (reaches_fetched _ _ _ _).trans (run_reaches h)
  · cases h

/-- For a finished lookup `exec` is `run`. -/
theorem exec_eq_run {i : Instr} (hi : i.complete = true) (s : State) : exec i s = run i s := by
  cases i
  case prefixCB => cases hi
  case prefixDD => cases hi
  case prefixED => cases hi
  case prefixFD => cases hi
  case prefixCBAfterIndex => cases hi
  case indexAgain xy i => exact if_pos hi
  case edAfterIndex xy i => exact if_pos hi
  case indexNoEffect xy i => exact if_pos hi
  all_goals rfl

/-- Executing an instruction. -/
theorem exec_reaches {i : Instr} {s t : State} (h : exec i s = .next t) : Reaches s t := by
  by_cases hi : i.complete = true
  · rw [exec_eq_run hi] at h; exact run_reaches h
  · cases i
    case prefixCB => exact resume_reaches h
    case prefixDD => exact resume_reaches h
    case prefixED => exact resume_reaches h
    case prefixFD => exact resume_reaches h
    case prefixCBAfterIndex => exact resume_reaches h
    case indexAgain xy i => exact resume_reaches ((if_neg hi).symm.trans h)
    case edAfterIndex xy i => exact resume_reaches ((if_neg hi).symm.trans h)
    case indexNoEffect xy i => exact resume_reaches ((if_neg hi).symm.trans h)
    all_goals exact absurd rfl hi

theorem reaches_acknowledge (s : State) : Reaches s s.acknowledge := reaches_cpu ⟨rfl, rfl, rfl, rfl, rfl⟩

theorem reaches_takeInterrupt (s : State) (w : Word) : Reaches s (s.takeInterrupt w) :=
  .cpu ((reaches_acknowledge s).trans (reaches_push16 _ _)) ⟨rfl, rfl, rfl, rfl, rfl⟩

theorem reaches_clearRequest (s : State) : Reaches s s.clearRequest := reaches_cpu ⟨rfl, rfl, rfl, rfl, rfl⟩

theorem reaches_enterMode2 (s : State) : Reaches s s.enterMode2 :=
  .cpu ((((reaches_clearRequest s).trans (reaches_acknowledge _)).trans (reaches_busByte _)).trans (reaches_push16 _ _))
    ⟨rfl, rfl, rfl, rfl, rfl⟩

theorem enterInt_reaches {s t : State} (h : s.enterInt = .next t) : Reaches s t := by
  unfold State.enterInt at h
  split at h
  · exact (((reaches_clearRequest s).trans (reaches_acknowledge _)).trans (reaches_busByte _)).trans (resume_reaches h)
  · cases h; exact (reaches_clearRequest s).trans (reaches_takeInterrupt _ _)
  · cases h; exact reaches_enterMode2 s

/-- What one slot is: its effect, and the T-states on top. -/
theorem step_eq_next {s t : State} (h : step s = .next t) : ∃ t', s.perform = .next t' ∧ t = t'.addT s.slotCost := by
  unfold step at h
  split at h
  · next t' e => cases h; exact ⟨t', e, rfl⟩
  · cases h
  · cases h

/-- The four kinds of slot (rule R539). -/
theorem perform_cases {s t : State} (h : s.perform = .next t) :
    (s.nextSlot = .nmi ∧ t = s.enterNmi) ∨ (s.nextSlot = .int ∧ s.enterInt = .next t) ∨
    (s.nextSlot = .haltedNop ∧ t = s.haltedSlot) ∨
    (s.nextSlot = .instruction ∧ ∃ i, s.lookup [] = some i ∧ exec i (s.afterFetch i) = .next t) := by
  unfold State.perform at h
  split at h
  · next e => cases h; exact .inl ⟨e, rfl⟩
  · next e => exact .inr (.inl ⟨e, h⟩)
  · next e => cases h; exact .inr (.inr (.inl ⟨e, rfl⟩))
  · next e =>
    split at h
    · next i hi => exact .inr (.inr (.inr ⟨e, i, hi, h⟩))
    · cases h

/-- One slot. -/
theorem step_reaches {s t : State} (h : step s = .next t) : Reaches s t := by
  obtain ⟨t', h', rfl⟩ := step_eq_next h
  refine .cpu (t := t') ?_ ⟨rfl, rfl, rfl, rfl, rfl⟩
  obtain ⟨-, rfl⟩ | ⟨-, h⟩ | ⟨-, rfl⟩ | ⟨-, i, -, h⟩ := perform_cases h'
  · exact .cpu ((reaches_cpu (s := s) (t := { s with nmiPending := false }) ⟨rfl, rfl, rfl, rfl, rfl⟩).trans
      (reaches_takeInterrupt _ _)) ⟨rfl, rfl, rfl, rfl, rfl⟩
  · exact enterInt_reaches h
  · exact reaches_cpu ⟨rfl, rfl, rfl, rfl, rfl⟩
  · exact (reaches_cpu (s := s) (t := s.afterFetch i) ⟨rfl, rfl, rfl, rfl, rfl⟩).trans (exec_reaches h)

end Sys2Proof.Machine
end

