-- ==== Sys2Proof/Laws/Flags.lean ====
section
/-! SUPPORT. The flags of every function of Machine/Flags.lean, each as a condition. -/

namespace Sys2Proof.Machine

/-! ## Masks, parity, nibbles -/

theorem getElem_maskIf (b : Bool) (m : Byte) (i : Nat) (h : i < 8) : (maskIf b m)[i] = (b && m[i]) := by
  cases b <;> simp [maskIf]

theorem evenParity_iff (v : Byte) : evenParity v = true ↔ EvenOnes v := by
  have h : onesCount v = (List.range 8).countP fun k => v.getLsbD k := by
    simp only [onesCount, List.range, List.range.loop, List.countP_cons, List.countP_nil]
    cases v.getLsbD 0 <;> cases v.getLsbD 1 <;> cases v.getLsbD 2 <;> cases v.getLsbD 3 <;> cases v.getLsbD 4 <;>
      cases v.getLsbD 5 <;> cases v.getLsbD 6 <;> cases v.getLsbD 7 <;> rfl
  simp [evenParity, EvenOnes, h]

theorem toNat_and_0x0F (v : Byte) : (v &&& 0x0F).toNat = v.toNat % 16 := by
  rw [BitVec.toNat_and]; exact Nat.and_two_pow_sub_one_eq_mod _ 4

theorem toNat_and_0x0FFF (w : Word) : (w &&& 0x0FFF).toNat = w.toNat % 4096 := by
  rw [BitVec.toNat_and]; exact Nat.and_two_pow_sub_one_eq_mod _ 12

theorem and_0x80_ne (v : Byte) : (v &&& 0x80 != 0) = v.getLsbD 7 := by
  revert v; decide

theorem and_0x8000_ne (w : Word) : (w &&& 0x8000 != 0) = w.getLsbD 15 := by
  have h : (w &&& 0x8000).getLsbD 15 = w.getLsbD 15 := by simp
  by_cases h0 : w &&& 0x8000 = 0
  · rw [h0] at h; rw [h0, ← h]; rfl
  · have : w.getLsbD 15 = true := by
      by_contra hn
      refine h0 (BitVec.eq_of_getLsbD_eq fun i hi => ?_)
      have : i ≠ 15 → (0x8000 : Word).getLsbD i = false := by
        revert hi; revert i; decide
      by_cases hi15 : i = 15
      · subst hi15; simpa using hn
      · rw [BitVec.getLsbD_and, this hi15, Bool.and_false]; simp
    rw [this]; simpa using h0

/-! ## 8-bit arithmetic and logic -/

theorem flagsAre_szp (v : Byte) : FlagsAre (szpBits v) (v.getLsbD 7 = true) (v = 0) (v.getLsbD 5 = true) False
    (v.getLsbD 3 = true) (EvenOnes v) False False := by
  constructor <;> simp [szpBits, szBits, xyBits, parBit, flagS, flagZ, flagY, flagH, flagX, flagPV, flagN, flagC,
    getElem_maskIf, evenParity_iff]

theorem flagsAre_add8 (a b : Byte) (c : Bool) :
    let r := add8 a b c
    FlagsAre r.flags (r.res.getLsbD 7 = true) (r.res = 0) (r.res.getLsbD 5 = true)
      (a.toNat % 16 + b.toNat % 16 + c.toNat > 15) (r.res.getLsbD 3 = true)
      (((a ^^^ r.res) &&& (b ^^^ r.res)).getLsbD 7 = true) False (a.toNat + b.toNat + c.toNat > 255) := by
  constructor <;> simp only [add8, flagS_flagByte, flagZ_flagByte, flagY_flagByte, flagH_flagByte, flagX_flagByte,
    flagPV_flagByte, flagN_flagByte, flagC_flagByte, toNat_and_0x0F, and_0x80_ne, decide_eq_true_eq, beq_iff_eq,
    Bool.false_eq_true]

theorem flagsAre_sub8 (a b : Byte) (c : Bool) :
    let r := sub8 a b c
    FlagsAre r.flags (r.res.getLsbD 7 = true) (r.res = 0) (r.res.getLsbD 5 = true)
      (a.toNat % 16 < b.toNat % 16 + c.toNat) (r.res.getLsbD 3 = true)
      (((a ^^^ b) &&& (a ^^^ r.res)).getLsbD 7 = true) True (a.toNat < b.toNat + c.toNat) := by
  constructor <;> simp only [sub8, flagS_flagByte, flagZ_flagByte, flagY_flagByte, flagH_flagByte, flagX_flagByte,
    flagPV_flagByte, flagN_flagByte, flagC_flagByte, toNat_and_0x0F, and_0x80_ne, decide_eq_true_eq, beq_iff_eq] <;> omega

theorem flagsAre_inc8 (f v : Byte) : FlagsAre (inc8 f v).flags ((v + 1).getLsbD 7 = true) (v = 0xFF)
    ((v + 1).getLsbD 5 = true) (v.toNat % 16 = 15) ((v + 1).getLsbD 3 = true) (v = 0x7F) False (flagC f = true) := by
  have h : (v &&& 0x0F == 0x0F) = decide (v.toNat % 16 = 15) := by revert v; decide
  have hz : (v + 1 == 0) = decide (v = 0xFF) := by revert v; decide
  constructor <;> simp only [inc8, flagS_flagByte, flagZ_flagByte, flagY_flagByte, flagH_flagByte, flagX_flagByte,
    flagPV_flagByte, flagN_flagByte, flagC_flagByte, h, hz, decide_eq_true_eq, beq_iff_eq, Bool.false_eq_true]

theorem flagsAre_dec8 (f v : Byte) : FlagsAre (dec8 f v).flags ((v - 1).getLsbD 7 = true) (v = 1)
    ((v - 1).getLsbD 5 = true) (v.toNat % 16 = 0) ((v - 1).getLsbD 3 = true) (v = 0x80) True (flagC f = true) := by
  have h : (v &&& 0x0F == 0) = decide (v.toNat % 16 = 0) := by revert v; decide
  have hz : (v - 1 == 0) = decide (v = 1) := by revert v; decide
  constructor <;> simp only [dec8, flagS_flagByte, flagZ_flagByte, flagY_flagByte, flagH_flagByte, flagX_flagByte,
    flagPV_flagByte, flagN_flagByte, flagC_flagByte, h, hz, decide_eq_true_eq, beq_iff_eq]

theorem flagsAre_and8 (a b : Byte) : FlagsAre (and8 a b).flags ((a &&& b).getLsbD 7 = true) (a &&& b = 0)
    ((a &&& b).getLsbD 5 = true) True ((a &&& b).getLsbD 3 = true) (EvenOnes (a &&& b)) False False := by
  have h := flagsAre_szp (a &&& b)
  constructor <;> simp only [and8, flags_or, Bool.or_eq_true, h.s, h.z, h.y, h.h, h.x, h.pv, h.n, h.c] <;> simp [flagS, flagZ, flagY, flagH, flagX, flagPV, flagN, flagC]

theorem flagsAre_xor8 (a b : Byte) : FlagsAre (xor8 a b).flags ((a ^^^ b).getLsbD 7 = true) (a ^^^ b = 0)
    ((a ^^^ b).getLsbD 5 = true) False ((a ^^^ b).getLsbD 3 = true) (EvenOnes (a ^^^ b)) False False :=
  flagsAre_szp (a ^^^ b)

theorem flagsAre_or8 (a b : Byte) : FlagsAre (or8 a b).flags ((a ||| b).getLsbD 7 = true) (a ||| b = 0)
    ((a ||| b).getLsbD 5 = true) False ((a ||| b).getLsbD 3 = true) (EvenOnes (a ||| b)) False False :=
  flagsAre_szp (a ||| b)

theorem sub8_res (a b : Byte) : (sub8 a b false).res = a - b := by
  apply BitVec.eq_of_toNat_eq
  simp only [sub8, BitVec.toNat_ofInt, BitVec.toNat_sub, Bool.toNat_false]
  omega

theorem flagsAre_compare8 (a b : Byte) : FlagsAre (compare8 a b).flags ((a - b).getLsbD 7 = true) (a - b = 0)
    (b.getLsbD 5 = true) (a.toNat % 16 < b.toNat % 16) (b.getLsbD 3 = true)
    (((a ^^^ b) &&& (a ^^^ (a - b))).getLsbD 7 = true) True (a.toNat < b.toNat) := by
  have h := flagsAre_sub8 a b false
  simp only [sub8_res, Bool.toNat_false, Nat.add_zero] at h
  constructor <;> simp only [compare8, flags_or, flags_and, Bool.or_eq_true, Bool.and_eq_true, h.s, h.z, h.y, h.h, h.x, h.pv, h.n, h.c] <;> simp [flagS, flagZ, flagY, flagH, flagX, flagPV, flagN, flagC, xyBits]

/-! ## General-purpose -/

theorem flagsAre_decimalAdjust (a f : Byte) :
    let r := decimalAdjust a f
    FlagsAre r.flags (r.res.getLsbD 7 = true) (r.res = 0) (r.res.getLsbD 5 = true)
      (if flagN f = true then flagH f = true ∧ a.toNat % 16 < 6 else a.toNat % 16 > 9)
      (r.res.getLsbD 3 = true) (EvenOnes r.res) (flagN f = true) (flagC f = true ∨ a.toNat > 0x99) := by
  have h := flagsAre_szp (decimalAdjust a f).res
  have e : (decimalAdjust a f).flags = szpBits (decimalAdjust a f).res |||
      maskIf (if flagN f then flagH f && decide (a.toNat % 16 < 6) else decide (a.toNat % 16 > 9)) 0x10 |||
      maskIf (flagN f) 0x02 ||| maskIf (flagC f || decide (a.toNat > 0x99)) 0x01 := by
    simp only [decimalAdjust, toNat_and_0x0F]
  constructor <;> simp only [e, flags_or, Bool.or_eq_true, h.s, h.z, h.y, h.h, h.x, h.pv, h.n, h.c] <;> simp [flagS, flagZ, flagY, flagH, flagX, flagPV, flagN, flagC, getElem_maskIf]

theorem flagsAre_complement (a f : Byte) : FlagsAre (complement a f).flags (flagS f = true) (flagZ f = true)
    (a.getLsbD 5 = false) True (a.getLsbD 3 = false) (flagPV f = true) True (flagC f = true) := by
  constructor <;> simp [complement, xyBits, flagS, flagZ, flagY, flagH, flagX, flagPV, flagN, flagC]

theorem flagsAre_ccf (a f : Byte) : FlagsAre (ccfFlags a f) (flagS f = true) (flagZ f = true) (a.getLsbD 5 = true)
    (flagC f = true) (a.getLsbD 3 = true) (flagPV f = true) False (flagC f = false) := by
  constructor <;> simp [ccfFlags, xyBits, flagS, flagZ, flagY, flagH, flagX, flagPV, flagN, flagC, getElem_maskIf]

theorem flagsAre_scf (a f : Byte) : FlagsAre (scfFlags a f) (flagS f = true) (flagZ f = true) (a.getLsbD 5 = true)
    False (a.getLsbD 3 = true) (flagPV f = true) False True := by
  constructor <;> simp [scfFlags, xyBits, flagS, flagZ, flagY, flagH, flagX, flagPV, flagN, flagC]

/-! ## 16-bit arithmetic -/

theorem flagsAre_add16 (f : Byte) (a b : Word) :
    let r := add16 f a b
    FlagsAre r.flags (flagS f = true) (flagZ f = true) (r.res.getLsbD 13 = true) (a.toNat % 4096 + b.toNat % 4096 > 4095)
      (r.res.getLsbD 11 = true) (flagPV f = true) False (a.toNat + b.toNat > 65535) := by
  constructor <;> simp only [add16, flagS_flagByte, flagZ_flagByte, flagY_flagByte, flagH_flagByte, flagX_flagByte,
    flagPV_flagByte, flagN_flagByte, flagC_flagByte, toNat_and_0x0FFF, decide_eq_true_eq, Bool.false_eq_true]

theorem flagsAre_adc16 (a b : Word) (c : Bool) :
    let r := adc16 a b c
    FlagsAre r.flags (r.res.getLsbD 15 = true) (r.res = 0) (r.res.getLsbD 13 = true)
      (a.toNat % 4096 + b.toNat % 4096 + c.toNat > 4095) (r.res.getLsbD 11 = true)
      (((a ^^^ r.res) &&& (b ^^^ r.res)).getLsbD 15 = true) False (a.toNat + b.toNat + c.toNat > 65535) := by
  constructor <;> simp only [adc16, flagS_flagByte, flagZ_flagByte, flagY_flagByte, flagH_flagByte, flagX_flagByte,
    flagPV_flagByte, flagN_flagByte, flagC_flagByte, toNat_and_0x0FFF, and_0x8000_ne, decide_eq_true_eq, beq_iff_eq,
    Bool.false_eq_true]

theorem flagsAre_sbc16 (a b : Word) (c : Bool) :
    let r := sbc16 a b c
    FlagsAre r.flags (r.res.getLsbD 15 = true) (r.res = 0) (r.res.getLsbD 13 = true)
      (a.toNat % 4096 < b.toNat % 4096 + c.toNat) (r.res.getLsbD 11 = true)
      (((a ^^^ b) &&& (a ^^^ r.res)).getLsbD 15 = true) True (a.toNat < b.toNat + c.toNat) := by
  constructor <;> simp only [sbc16, flagS_flagByte, flagZ_flagByte, flagY_flagByte, flagH_flagByte, flagX_flagByte,
    flagPV_flagByte, flagN_flagByte, flagC_flagByte, toNat_and_0x0FFF, and_0x8000_ne, decide_eq_true_eq, beq_iff_eq] <;> omega

/-! ## Rotates, shifts, bits -/

theorem shift_result (o : ShiftOp) (v : Byte) (c : Bool) :
    o.result v c = BitVec.ofNat 8 (shiftNat v.toNat c.toNat o) := by
  revert v c; cases o <;> decide

theorem shift_carryOut (o : ShiftOp) (v : Byte) : o.carryOut v = true ↔ shiftOut v.toNat o = 1 := by
  revert v; cases o <;> decide

theorem flagsAre_shift8 (o : ShiftOp) (f v : Byte) :
    let r := shift8 o f v
    FlagsAre r.flags (r.res.getLsbD 7 = true) (r.res = 0) (r.res.getLsbD 5 = true) False (r.res.getLsbD 3 = true)
      (EvenOnes r.res) False (shiftOut v.toNat o = 1) := by
  have h := flagsAre_szp (shift8 o f v).res
  have e : (shift8 o f v).flags = szpBits (shift8 o f v).res ||| maskIf (o.carryOut v) 0x01 := rfl
  constructor <;> simp only [e, flags_or, Bool.or_eq_true, h.s, h.z, h.y, h.h, h.x, h.pv, h.n, h.c, ← shift_carryOut] <;> simp [flagS, flagZ, flagY, flagH, flagX, flagPV, flagN, flagC, getElem_maskIf]

theorem flagsAre_rotateAcc (o : ShiftOp) (f a : Byte) :
    let r := rotateAcc o f a
    FlagsAre r.flags (flagS f = true) (flagZ f = true) (r.res.getLsbD 5 = true) False (r.res.getLsbD 3 = true)
      (flagPV f = true) False (shiftOut a.toNat o = 1) := by
  rw [← shift_carryOut]
  constructor <;> simp [rotateAcc, xyBits, flagS, flagZ, flagY, flagH, flagX, flagPV, flagN, flagC, getElem_maskIf]

theorem flagsAre_bit (b : Bits3) (v xy f : Byte) : FlagsAre (bitFlags b v xy f) (b = 7 ∧ v.getLsbD b.toNat = true)
    (v.getLsbD b.toNat = false) (xy.getLsbD 5 = true) True (xy.getLsbD 3 = true) (v.getLsbD b.toNat = false) False
    (flagC f = true) := by
  constructor <;> simp [bitFlags, xyBits, flagS, flagZ, flagY, flagH, flagX, flagPV, flagN, flagC, getElem_maskIf]

/-! ## Loads from I and R, blocks, input -/

theorem flagsAre_controlLoad (v : Byte) (iff2 : Bool) (f : Byte) : FlagsAre (controlLoadFlags v iff2 f)
    (v.getLsbD 7 = true) (v = 0) (v.getLsbD 5 = true) False (v.getLsbD 3 = true) (iff2 = true) False (flagC f = true) := by
  constructor <;> simp [controlLoadFlags, szBits, xyBits, flagS, flagZ, flagY, flagH, flagX, flagPV, flagN, flagC, getElem_maskIf]

theorem flagsAre_copy (v a : Byte) (bc : Word) (f : Byte) : FlagsAre (copyFlags v a bc f) (flagS f = true)
    (flagZ f = true) ((v + a).getLsbD 1 = true) False ((v + a).getLsbD 3 = true) (bc ≠ 0) False (flagC f = true) := by
  constructor <;> simp [copyFlags, flagS, flagZ, flagY, flagH, flagX, flagPV, flagN, flagC, getElem_maskIf]

theorem flagsAre_search (a v : Byte) (bc : Word) (f : Byte) :
    let n := a - v - (if a.toNat % 16 < v.toNat % 16 then 1 else 0)
    FlagsAre (searchFlags a v bc f) ((a - v).getLsbD 7 = true) (a - v = 0) (n.getLsbD 1 = true)
      (a.toNat % 16 < v.toNat % 16) (n.getLsbD 3 = true) (bc ≠ 0) True (flagC f = true) := by
  have hf : ((a &&& 0x0F) < (v &&& 0x0F)) ↔ a.toNat % 16 < v.toNat % 16 := by
    rw [BitVec.lt_def, toNat_and_0x0F, toNat_and_0x0F]
  constructor <;> simp only [searchFlags, flagS_flagByte, flagZ_flagByte, flagY_flagByte, flagH_flagByte, flagX_flagByte,
    flagPV_flagByte, flagN_flagByte, flagC_flagByte, hf, maskIf, decide_eq_true_eq, beq_iff_eq, bne_iff_ne]

theorem flagsAre_in (v f : Byte) : FlagsAre (inFlags v f) (v.getLsbD 7 = true) (v = 0) (v.getLsbD 5 = true) False
    (v.getLsbD 3 = true) (EvenOnes v) False (flagC f = true) := by
  have h := flagsAre_szp v
  constructor <;> simp only [inFlags, flags_or, Bool.or_eq_true, h.s, h.z, h.y, h.h, h.x, h.pv, h.n, h.c] <;> simp [flagS, flagZ, flagY, flagH, flagX, flagPV, flagN, flagC]

theorem flagsAre_io (v b : Byte) (k : Nat) : FlagsAre (ioFlags v b k) (b.getLsbD 7 = true) (b = 0) (b.getLsbD 5 = true)
    (k > 255) (b.getLsbD 3 = true) (EvenOnes (BitVec.ofNat 8 (k % 8) ^^^ b)) (v.getLsbD 7 = true) (k > 255) := by
  constructor <;> simp [ioFlags, szBits, xyBits, parBit, flagS, flagZ, flagY, flagH, flagX, flagPV, flagN, flagC, getElem_maskIf, evenParity_iff]

end Sys2Proof.Machine
end

