-- ==== Sys2Proof/Laws/PerInstr.lean ====
section
/-! SUPPORT. Per instruction: the shape of an encoding follows from the decode table the instruction stands in (rules R120,
R143). -/

namespace Sys2Proof.Laws.FormOfTable

/-- The prefix bytes of a table stand in front of the opcode; a finished main-table instruction begins with none. -/
def Statement (i : Instr) : Prop :=
  match i.table with
  | .main => ∃ op rest, i.encode = op :: rest ∧ (i.complete = true → op ≠ 0xCB ∧ op ≠ 0xDD ∧ op ≠ 0xED ∧ op ≠ 0xFD)
  | .cb => ∃ op, i.encode = [0xCB, op]
  | .ed => ∃ op rest, i.encode = 0xED :: op :: rest
  | .xd => ∃ xy rest, i.encode = XY.code xy :: rest
  | .xdcb => ∃ xy d op, i.encode = [XY.code xy, 0xCB, d, op]

theorem ldRR (r : Reg8) (r' : Reg8) : Statement (.ldRR r r') := by cases r <;> cases r' <;> exact ⟨_, _, rfl, fun _ => by decide⟩
theorem ldRN (r : Reg8) (n : Byte) : Statement (.ldRN r n) := by cases r <;> exact ⟨_, _, rfl, fun _ => by decide⟩
theorem ldRHL (r : Reg8) : Statement (.ldRHL r) := by cases r <;> exact ⟨_, _, rfl, fun _ => by decide⟩
theorem ldRXYd (xy : XY) (r : Reg8) (d : Byte) : Statement (.ldRXYd xy r d) := ⟨xy, _, rfl⟩
theorem ldHLR (r : Reg8) : Statement (.ldHLR r) := by cases r <;> exact ⟨_, _, rfl, fun _ => by decide⟩
theorem ldXYdR (xy : XY) (r : Reg8) (d : Byte) : Statement (.ldXYdR xy r d) := ⟨xy, _, rfl⟩
theorem ldHLN (n : Byte) : Statement (.ldHLN n) := ⟨_, _, rfl, fun _ => by decide⟩
theorem ldXYdN (xy : XY) (d : Byte) (n : Byte) : Statement (.ldXYdN xy d n) := ⟨xy, _, rfl⟩
theorem ldABC : Statement .ldABC := ⟨_, _, rfl, fun _ => by decide⟩
theorem ldADE : Statement .ldADE := ⟨_, _, rfl, fun _ => by decide⟩
theorem ldANN (nn : Word) : Statement (.ldANN nn) := ⟨_, _, rfl, fun _ => by decide⟩
theorem ldBCA : Statement .ldBCA := ⟨_, _, rfl, fun _ => by decide⟩
theorem ldDEA : Statement .ldDEA := ⟨_, _, rfl, fun _ => by decide⟩
theorem ldNNA (nn : Word) : Statement (.ldNNA nn) := ⟨_, _, rfl, fun _ => by decide⟩
theorem ldAI : Statement .ldAI := ⟨_, _, rfl⟩
theorem ldAR : Statement .ldAR := ⟨_, _, rfl⟩
theorem ldIA : Statement .ldIA := ⟨_, _, rfl⟩
theorem ldRA : Statement .ldRA := ⟨_, _, rfl⟩
theorem ldPP (xy : XY) (p : PReg) (p' : PReg) : Statement (.ldPP xy p p') := ⟨xy, _, rfl⟩
theorem ldXYHN (xy : XY) (n : Byte) : Statement (.ldXYHN xy n) := ⟨xy, _, rfl⟩
theorem ldXYLN (xy : XY) (n : Byte) : Statement (.ldXYLN xy n) := ⟨xy, _, rfl⟩
theorem ldDDNN (dd : PairDD) (nn : Word) : Statement (.ldDDNN dd nn) := by cases dd <;> exact ⟨_, _, rfl, fun _ => by decide⟩
theorem ldXYNN (xy : XY) (nn : Word) : Statement (.ldXYNN xy nn) := ⟨xy, _, rfl⟩
theorem ldHLNN (nn : Word) : Statement (.ldHLNN nn) := ⟨_, _, rfl, fun _ => by decide⟩
theorem ldDDMem (dd : PairDD) (nn : Word) : Statement (.ldDDMem dd nn) := ⟨_, _, rfl⟩
theorem ldXYMem (xy : XY) (nn : Word) : Statement (.ldXYMem xy nn) := ⟨xy, _, rfl⟩
theorem ldNNHL (nn : Word) : Statement (.ldNNHL nn) := ⟨_, _, rfl, fun _ => by decide⟩
theorem ldNNDD (nn : Word) (dd : PairDD) : Statement (.ldNNDD nn dd) := ⟨_, _, rfl⟩
theorem ldNNXY (xy : XY) (nn : Word) : Statement (.ldNNXY xy nn) := ⟨xy, _, rfl⟩
theorem ldSPHL : Statement .ldSPHL := ⟨_, _, rfl, fun _ => by decide⟩
theorem ldSPXY (xy : XY) : Statement (.ldSPXY xy) := ⟨xy, _, rfl⟩
theorem pushQQ (qq : PairQQ) : Statement (.pushQQ qq) := by cases qq <;> exact ⟨_, _, rfl, fun _ => by decide⟩
theorem pushXY (xy : XY) : Statement (.pushXY xy) := ⟨xy, _, rfl⟩
theorem popQQ (qq : PairQQ) : Statement (.popQQ qq) := by cases qq <;> exact ⟨_, _, rfl, fun _ => by decide⟩
theorem popXY (xy : XY) : Statement (.popXY xy) := ⟨xy, _, rfl⟩
theorem exDEHL : Statement .exDEHL := ⟨_, _, rfl, fun _ => by decide⟩
theorem exAFAF : Statement .exAFAF := ⟨_, _, rfl, fun _ => by decide⟩
theorem exx : Statement .exx := ⟨_, _, rfl, fun _ => by decide⟩
theorem exSPHL : Statement .exSPHL := ⟨_, _, rfl, fun _ => by decide⟩
theorem exSPXY (xy : XY) : Statement (.exSPXY xy) := ⟨xy, _, rfl⟩
theorem ldi : Statement .ldi := ⟨_, _, rfl⟩
theorem ldir : Statement .ldir := ⟨_, _, rfl⟩
theorem ldd : Statement .ldd := ⟨_, _, rfl⟩
theorem lddr : Statement .lddr := ⟨_, _, rfl⟩
theorem cpi : Statement .cpi := ⟨_, _, rfl⟩
theorem cpir : Statement .cpir := ⟨_, _, rfl⟩
theorem cpd : Statement .cpd := ⟨_, _, rfl⟩
theorem cpdr : Statement .cpdr := ⟨_, _, rfl⟩
theorem addR (r : Reg8) : Statement (.addR r) := by cases r <;> exact ⟨_, _, rfl, fun _ => by decide⟩
theorem addHL : Statement .addHL := ⟨_, _, rfl, fun _ => by decide⟩
theorem addN (n : Byte) : Statement (.addN n) := ⟨_, _, rfl, fun _ => by decide⟩
theorem addXYd (xy : XY) (d : Byte) : Statement (.addXYd xy d) := ⟨xy, _, rfl⟩
theorem addXYH (xy : XY) : Statement (.addXYH xy) := ⟨xy, _, rfl⟩
theorem addXYL (xy : XY) : Statement (.addXYL xy) := ⟨xy, _, rfl⟩
theorem adcR (r : Reg8) : Statement (.adcR r) := by cases r <;> exact ⟨_, _, rfl, fun _ => by decide⟩
theorem adcHL : Statement .adcHL := ⟨_, _, rfl, fun _ => by decide⟩
theorem adcN (n : Byte) : Statement (.adcN n) := ⟨_, _, rfl, fun _ => by decide⟩
theorem adcXYd (xy : XY) (d : Byte) : Statement (.adcXYd xy d) := ⟨xy, _, rfl⟩
theorem adcXYH (xy : XY) : Statement (.adcXYH xy) := ⟨xy, _, rfl⟩
theorem adcXYL (xy : XY) : Statement (.adcXYL xy) := ⟨xy, _, rfl⟩
theorem subR (r : Reg8) : Statement (.subR r) := by cases r <;> exact ⟨_, _, rfl, fun _ => by decide⟩
theorem subHL : Statement .subHL := ⟨_, _, rfl, fun _ => by decide⟩
theorem subN (n : Byte) : Statement (.subN n) := ⟨_, _, rfl, fun _ => by decide⟩
theorem subXYd (xy : XY) (d : Byte) : Statement (.subXYd xy d) := ⟨xy, _, rfl⟩
theorem subXYH (xy : XY) : Statement (.subXYH xy) := ⟨xy, _, rfl⟩
theorem subXYL (xy : XY) : Statement (.subXYL xy) := ⟨xy, _, rfl⟩
theorem sbcR (r : Reg8) : Statement (.sbcR r) := by cases r <;> exact ⟨_, _, rfl, fun _ => by decide⟩
theorem sbcHL : Statement .sbcHL := ⟨_, _, rfl, fun _ => by decide⟩
theorem sbcN (n : Byte) : Statement (.sbcN n) := ⟨_, _, rfl, fun _ => by decide⟩
theorem sbcXYd (xy : XY) (d : Byte) : Statement (.sbcXYd xy d) := ⟨xy, _, rfl⟩
theorem sbcXYH (xy : XY) : Statement (.sbcXYH xy) := ⟨xy, _, rfl⟩
theorem sbcXYL (xy : XY) : Statement (.sbcXYL xy) := ⟨xy, _, rfl⟩
theorem andR (r : Reg8) : Statement (.andR r) := by cases r <;> exact ⟨_, _, rfl, fun _ => by decide⟩
theorem andHL : Statement .andHL := ⟨_, _, rfl, fun _ => by decide⟩
theorem andN (n : Byte) : Statement (.andN n) := ⟨_, _, rfl, fun _ => by decide⟩
theorem andXYd (xy : XY) (d : Byte) : Statement (.andXYd xy d) := ⟨xy, _, rfl⟩
theorem andXYH (xy : XY) : Statement (.andXYH xy) := ⟨xy, _, rfl⟩
theorem andXYL (xy : XY) : Statement (.andXYL xy) := ⟨xy, _, rfl⟩
theorem xorR (r : Reg8) : Statement (.xorR r) := by cases r <;> exact ⟨_, _, rfl, fun _ => by decide⟩
theorem xorHL : Statement .xorHL := ⟨_, _, rfl, fun _ => by decide⟩
theorem xorN (n : Byte) : Statement (.xorN n) := ⟨_, _, rfl, fun _ => by decide⟩
theorem xorXYd (xy : XY) (d : Byte) : Statement (.xorXYd xy d) := ⟨xy, _, rfl⟩
theorem xorXYH (xy : XY) : Statement (.xorXYH xy) := ⟨xy, _, rfl⟩
theorem xorXYL (xy : XY) : Statement (.xorXYL xy) := ⟨xy, _, rfl⟩
theorem orR (r : Reg8) : Statement (.orR r) := by cases r <;> exact ⟨_, _, rfl, fun _ => by decide⟩
theorem orHL : Statement .orHL := ⟨_, _, rfl, fun _ => by decide⟩
theorem orN (n : Byte) : Statement (.orN n) := ⟨_, _, rfl, fun _ => by decide⟩
theorem orXYd (xy : XY) (d : Byte) : Statement (.orXYd xy d) := ⟨xy, _, rfl⟩
theorem orXYH (xy : XY) : Statement (.orXYH xy) := ⟨xy, _, rfl⟩
theorem orXYL (xy : XY) : Statement (.orXYL xy) := ⟨xy, _, rfl⟩
theorem cpR (r : Reg8) : Statement (.cpR r) := by cases r <;> exact ⟨_, _, rfl, fun _ => by decide⟩
theorem cpHL : Statement .cpHL := ⟨_, _, rfl, fun _ => by decide⟩
theorem cpN (n : Byte) : Statement (.cpN n) := ⟨_, _, rfl, fun _ => by decide⟩
theorem cpXYd (xy : XY) (d : Byte) : Statement (.cpXYd xy d) := ⟨xy, _, rfl⟩
theorem cpXYH (xy : XY) : Statement (.cpXYH xy) := ⟨xy, _, rfl⟩
theorem cpXYL (xy : XY) : Statement (.cpXYL xy) := ⟨xy, _, rfl⟩
theorem incR (r : Reg8) : Statement (.incR r) := by cases r <;> exact ⟨_, _, rfl, fun _ => by decide⟩
theorem incHL : Statement .incHL := ⟨_, _, rfl, fun _ => by decide⟩
theorem incXYd (xy : XY) (d : Byte) : Statement (.incXYd xy d) := ⟨xy, _, rfl⟩
theorem incXYH (xy : XY) : Statement (.incXYH xy) := ⟨xy, _, rfl⟩
theorem incXYL (xy : XY) : Statement (.incXYL xy) := ⟨xy, _, rfl⟩
theorem decR (r : Reg8) : Statement (.decR r) := by cases r <;> exact ⟨_, _, rfl, fun _ => by decide⟩
theorem decHL : Statement .decHL := ⟨_, _, rfl, fun _ => by decide⟩
theorem decXYd (xy : XY) (d : Byte) : Statement (.decXYd xy d) := ⟨xy, _, rfl⟩
theorem decXYH (xy : XY) : Statement (.decXYH xy) := ⟨xy, _, rfl⟩
theorem decXYL (xy : XY) : Statement (.decXYL xy) := ⟨xy, _, rfl⟩
theorem daa : Statement .daa := ⟨_, _, rfl, fun _ => by decide⟩
theorem cpl : Statement .cpl := ⟨_, _, rfl, fun _ => by decide⟩
theorem neg : Statement .neg := ⟨_, _, rfl⟩
theorem negCopies (y : Bits3) : Statement (.negCopies y) := ⟨_, _, rfl⟩
theorem ccf : Statement .ccf := ⟨_, _, rfl, fun _ => by decide⟩
theorem scf : Statement .scf := ⟨_, _, rfl, fun _ => by decide⟩
theorem nop : Statement .nop := ⟨_, _, rfl, fun _ => by decide⟩
theorem halt : Statement .halt := ⟨_, _, rfl, fun _ => by decide⟩
theorem di : Statement .di := ⟨_, _, rfl, fun _ => by decide⟩
theorem ei : Statement .ei := ⟨_, _, rfl, fun _ => by decide⟩
theorem im0 : Statement .im0 := ⟨_, _, rfl⟩
theorem im1 : Statement .im1 := ⟨_, _, rfl⟩
theorem im2 : Statement .im2 := ⟨_, _, rfl⟩
theorem im0Copies (y : Bits3) : Statement (.im0Copies y) := ⟨_, _, rfl⟩
theorem im1Copy : Statement .im1Copy := ⟨_, _, rfl⟩
theorem im2Copy : Statement .im2Copy := ⟨_, _, rfl⟩
theorem edNop (op : Byte) : Statement (.edNop op) := ⟨_, _, rfl⟩
theorem addHLSS (ss : PairDD) : Statement (.addHLSS ss) := by cases ss <;> exact ⟨_, _, rfl, fun _ => by decide⟩
theorem addXYPP (xy : XY) (pp : PairPP) : Statement (.addXYPP xy pp) := ⟨xy, _, rfl⟩
theorem adcHLSS (ss : PairDD) : Statement (.adcHLSS ss) := ⟨_, _, rfl⟩
theorem sbcHLSS (ss : PairDD) : Statement (.sbcHLSS ss) := ⟨_, _, rfl⟩
theorem incSS (ss : PairDD) : Statement (.incSS ss) := by cases ss <;> exact ⟨_, _, rfl, fun _ => by decide⟩
theorem incXY (xy : XY) : Statement (.incXY xy) := ⟨xy, _, rfl⟩
theorem decSS (ss : PairDD) : Statement (.decSS ss) := by cases ss <;> exact ⟨_, _, rfl, fun _ => by decide⟩
theorem decXY (xy : XY) : Statement (.decXY xy) := ⟨xy, _, rfl⟩
theorem rlca : Statement .rlca := ⟨_, _, rfl, fun _ => by decide⟩
theorem rla : Statement .rla := ⟨_, _, rfl, fun _ => by decide⟩
theorem rrca : Statement .rrca := ⟨_, _, rfl, fun _ => by decide⟩
theorem rra : Statement .rra := ⟨_, _, rfl, fun _ => by decide⟩
theorem rlcR (r : Reg8) : Statement (.rlcR r) := ⟨_, rfl⟩
theorem rlcHL : Statement .rlcHL := ⟨_, rfl⟩
theorem rlcXYd (xy : XY) (d : Byte) : Statement (.rlcXYd xy d) := ⟨xy, _, _, rfl⟩
theorem rlcXYdR (xy : XY) (d : Byte) (r : Reg8) : Statement (.rlcXYdR xy d r) := ⟨xy, _, _, rfl⟩
theorem rrcR (r : Reg8) : Statement (.rrcR r) := ⟨_, rfl⟩
theorem rrcHL : Statement .rrcHL := ⟨_, rfl⟩
theorem rrcXYd (xy : XY) (d : Byte) : Statement (.rrcXYd xy d) := ⟨xy, _, _, rfl⟩
theorem rrcXYdR (xy : XY) (d : Byte) (r : Reg8) : Statement (.rrcXYdR xy d r) := ⟨xy, _, _, rfl⟩
theorem rlR (r : Reg8) : Statement (.rlR r) := ⟨_, rfl⟩
theorem rlHL : Statement .rlHL := ⟨_, rfl⟩
theorem rlXYd (xy : XY) (d : Byte) : Statement (.rlXYd xy d) := ⟨xy, _, _, rfl⟩
theorem rlXYdR (xy : XY) (d : Byte) (r : Reg8) : Statement (.rlXYdR xy d r) := ⟨xy, _, _, rfl⟩
theorem rrR (r : Reg8) : Statement (.rrR r) := ⟨_, rfl⟩
theorem rrHL : Statement .rrHL := ⟨_, rfl⟩
theorem rrXYd (xy : XY) (d : Byte) : Statement (.rrXYd xy d) := ⟨xy, _, _, rfl⟩
theorem rrXYdR (xy : XY) (d : Byte) (r : Reg8) : Statement (.rrXYdR xy d r) := ⟨xy, _, _, rfl⟩
theorem slaR (r : Reg8) : Statement (.slaR r) := ⟨_, rfl⟩
theorem slaHL : Statement .slaHL := ⟨_, rfl⟩
theorem slaXYd (xy : XY) (d : Byte) : Statement (.slaXYd xy d) := ⟨xy, _, _, rfl⟩
theorem slaXYdR (xy : XY) (d : Byte) (r : Reg8) : Statement (.slaXYdR xy d r) := ⟨xy, _, _, rfl⟩
theorem sraR (r : Reg8) : Statement (.sraR r) := ⟨_, rfl⟩
theorem sraHL : Statement .sraHL := ⟨_, rfl⟩
theorem sraXYd (xy : XY) (d : Byte) : Statement (.sraXYd xy d) := ⟨xy, _, _, rfl⟩
theorem sraXYdR (xy : XY) (d : Byte) (r : Reg8) : Statement (.sraXYdR xy d r) := ⟨xy, _, _, rfl⟩
theorem sllR (r : Reg8) : Statement (.sllR r) := ⟨_, rfl⟩
theorem sllHL : Statement .sllHL := ⟨_, rfl⟩
theorem sllXYd (xy : XY) (d : Byte) : Statement (.sllXYd xy d) := ⟨xy, _, _, rfl⟩
theorem sllXYdR (xy : XY) (d : Byte) (r : Reg8) : Statement (.sllXYdR xy d r) := ⟨xy, _, _, rfl⟩
theorem srlR (r : Reg8) : Statement (.srlR r) := ⟨_, rfl⟩
theorem srlHL : Statement .srlHL := ⟨_, rfl⟩
theorem srlXYd (xy : XY) (d : Byte) : Statement (.srlXYd xy d) := ⟨xy, _, _, rfl⟩
theorem srlXYdR (xy : XY) (d : Byte) (r : Reg8) : Statement (.srlXYdR xy d r) := ⟨xy, _, _, rfl⟩
theorem rld : Statement .rld := ⟨_, _, rfl⟩
theorem rrd : Statement .rrd := ⟨_, _, rfl⟩
theorem bitBR (b : Bits3) (r : Reg8) : Statement (.bitBR b r) := ⟨_, rfl⟩
theorem bitBHL (b : Bits3) : Statement (.bitBHL b) := ⟨_, rfl⟩
theorem bitBXYd (xy : XY) (d : Byte) (b : Bits3) : Statement (.bitBXYd xy d b) := ⟨xy, _, _, rfl⟩
theorem bitBXYdCopies (xy : XY) (d : Byte) (b : Bits3) (z : Bits3) : Statement (.bitBXYdCopies xy d b z) := ⟨xy, _, _, rfl⟩
theorem resBR (b : Bits3) (r : Reg8) : Statement (.resBR b r) := ⟨_, rfl⟩
theorem resBHL (b : Bits3) : Statement (.resBHL b) := ⟨_, rfl⟩
theorem resBXYd (xy : XY) (d : Byte) (b : Bits3) : Statement (.resBXYd xy d b) := ⟨xy, _, _, rfl⟩
theorem resBXYdR (xy : XY) (d : Byte) (b : Bits3) (r : Reg8) : Statement (.resBXYdR xy d b r) := ⟨xy, _, _, rfl⟩
theorem setBR (b : Bits3) (r : Reg8) : Statement (.setBR b r) := ⟨_, rfl⟩
theorem setBHL (b : Bits3) : Statement (.setBHL b) := ⟨_, rfl⟩
theorem setBXYd (xy : XY) (d : Byte) (b : Bits3) : Statement (.setBXYd xy d b) := ⟨xy, _, _, rfl⟩
theorem setBXYdR (xy : XY) (d : Byte) (b : Bits3) (r : Reg8) : Statement (.setBXYdR xy d b r) := ⟨xy, _, _, rfl⟩
theorem jpNN (nn : Word) : Statement (.jpNN nn) := ⟨_, _, rfl, fun _ => by decide⟩
theorem jpCcNN (cc : Cond) (nn : Word) : Statement (.jpCcNN cc nn) := by cases cc <;> exact ⟨_, _, rfl, fun _ => by decide⟩
theorem jrE (e : Byte) : Statement (.jrE e) := ⟨_, _, rfl, fun _ => by decide⟩
theorem jrCcE (cc : Cond) (e : Byte) : Statement (.jrCcE cc e) := by cases cc <;> exact ⟨_, _, rfl, fun _ => by decide⟩
theorem jpHL : Statement .jpHL := ⟨_, _, rfl, fun _ => by decide⟩
theorem jpXY (xy : XY) : Statement (.jpXY xy) := ⟨xy, _, rfl⟩
theorem djnzE (e : Byte) : Statement (.djnzE e) := ⟨_, _, rfl, fun _ => by decide⟩
theorem callNN (nn : Word) : Statement (.callNN nn) := ⟨_, _, rfl, fun _ => by decide⟩
theorem callCcNN (cc : Cond) (nn : Word) : Statement (.callCcNN cc nn) := by cases cc <;> exact ⟨_, _, rfl, fun _ => by decide⟩
theorem ret : Statement .ret := ⟨_, _, rfl, fun _ => by decide⟩
theorem retCc (cc : Cond) : Statement (.retCc cc) := by cases cc <;> exact ⟨_, _, rfl, fun _ => by decide⟩
theorem reti : Statement .reti := ⟨_, _, rfl⟩
theorem retn : Statement .retn := ⟨_, _, rfl⟩
theorem retnCopies (y : Bits3) : Statement (.retnCopies y) := ⟨_, _, rfl⟩
theorem rstP (t : Bits3) : Statement (.rstP t) := ⟨_, _, rfl, fun _ => by revert t; decide⟩
theorem inAN (n : Byte) : Statement (.inAN n) := ⟨_, _, rfl, fun _ => by decide⟩
theorem inRC (r : Reg8) : Statement (.inRC r) := ⟨_, _, rfl⟩
theorem inFC : Statement .inFC := ⟨_, _, rfl⟩
theorem outNA (n : Byte) : Statement (.outNA n) := ⟨_, _, rfl, fun _ => by decide⟩
theorem outCR (r : Reg8) : Statement (.outCR r) := ⟨_, _, rfl⟩
theorem outC0 : Statement .outC0 := ⟨_, _, rfl⟩
theorem ini : Statement .ini := ⟨_, _, rfl⟩
theorem inir : Statement .inir := ⟨_, _, rfl⟩
theorem ind : Statement .ind := ⟨_, _, rfl⟩
theorem indr : Statement .indr := ⟨_, _, rfl⟩
theorem outi : Statement .outi := ⟨_, _, rfl⟩
theorem otir : Statement .otir := ⟨_, _, rfl⟩
theorem outd : Statement .outd := ⟨_, _, rfl⟩
theorem otdr : Statement .otdr := ⟨_, _, rfl⟩
theorem prefixCB : Statement .prefixCB := ⟨_, _, rfl, nofun⟩
theorem prefixDD : Statement .prefixDD := ⟨_, _, rfl, nofun⟩
theorem prefixED : Statement .prefixED := ⟨_, _, rfl, nofun⟩
theorem prefixFD : Statement .prefixFD := ⟨_, _, rfl, nofun⟩
theorem prefixCBAfterIndex (xy : XY) : Statement (.prefixCBAfterIndex xy) := ⟨xy, _, rfl⟩
theorem indexAgain (xy : XY) (i : Instr) : Statement (.indexAgain xy i) := ⟨xy, _, rfl⟩
theorem edAfterIndex (xy : XY) (i : Instr) : Statement (.edAfterIndex xy i) := ⟨xy, _, rfl⟩
theorem indexNoEffect (xy : XY) (i : Instr) : Statement (.indexNoEffect xy i) := ⟨xy, _, rfl⟩

end Sys2Proof.Laws.FormOfTable
end

