-- ==== Sys2Proof/Laws/Snapshot.lean ====
section
/-! SUPPORT. The block list of a snapshot file: what `readBlocks` and `findScreen` do with one block, with a list of blocks that
load, and at the end of a file. -/

namespace Sys2Proof.Machine

/-- The length field of a block. -/
def FileBlock.lengthField (b : FileBlock) : Word := if b.raw then 0xFFFF else BitVec.ofNat 16 b.data.length

/-- The length field of a sized block is no terminator, announces its data and says how its page is stored. -/
theorem FileBlock.Sized.lengthField {b : FileBlock} (h : b.Sized) :
    b.lengthField ≠ 0 ∧ blockLength b.lengthField = b.data.length ∧
    ∀ size, size ≤ 16384 → blockPage b.lengthField b.data size = b.page size := by
  rcases b with ⟨id, raw, data⟩
  cases raw
  · obtain ⟨h1, h2⟩ : 0 < data.length ∧ data.length < 0xFFFF := by simpa [FileBlock.Sized] using h
    have e : (BitVec.ofNat 16 data.length).toNat = data.length := by simp; omega
    have ne : ∀ w : Word, w.toNat ≠ data.length → BitVec.ofNat 16 data.length ≠ w := by
      rintro w hw rfl
      exact hw e
    have n1 : BitVec.ofNat 16 data.length ≠ 0 := ne 0 (by show (0 : Nat) ≠ _; omega)
    have n2 : BitVec.ofNat 16 data.length ≠ 0xFFFF := ne 0xFFFF (by show (0xFFFF : Nat) ≠ _; omega)
    simp only [FileBlock.lengthField, FileBlock.page, blockLength, blockPage, Bool.false_eq_true, if_false]
    rw [if_neg n2, e]
    exact ⟨n1, rfl, fun _ _ => by rw [if_neg n2]⟩
  · have h1 : data.length = 16384 := by simpa [FileBlock.Sized] using h
    simp only [FileBlock.lengthField, FileBlock.page, blockLength, blockPage, if_true]
    exact ⟨by decide, by rw [h1]; rfl, fun _ _ => trivial⟩

theorem FileBlock.length_bytes (b : FileBlock) : b.bytes.length = 3 + b.data.length := by
  simp [FileBlock.bytes]
  omega

/-- One sized block of the list. -/
theorem readBlocks_block (is128 : Bool) (n : Nat) {b : FileBlock} (hb : b.Sized) (rest : List Byte) (ram : Memory) :
    readBlocks is128 (n + 1) (b.bytes ++ rest) ram =
      match pageToBank b.id is128 with
      | none => readBlocks is128 n rest ram
      | some bank =>
        if (b.page 16384).length = pageSize then readBlocks is128 n rest (ram.setPage bank (b.page 16384)) else none := by
  obtain ⟨h1, h2, h3⟩ := hb.lengthField
  show readBlocks is128 (n + 1) (lo8 b.lengthField :: hi8 b.lengthField :: b.id :: (b.data ++ rest)) ram = _
  simp only [readBlocks, joinBytes_hi8_lo8]
  rw [if_neg h1, h2, if_neg (by simp), List.take_left, List.drop_left,
    show blockPage b.lengthField b.data pageSize = b.page 16384 from h3 _ (Nat.le_refl _)]
  all_goals rfl

/-- The same for the search of a screenshot. -/
theorem findScreen_block (n : Nat) {b : FileBlock} (hb : b.Sized) (rest : List Byte) :
    findScreen (n + 1) (b.bytes ++ rest) = if b.id = 8 then some (b.page 6912) else findScreen n rest := by
  obtain ⟨h1, h2, h3⟩ := hb.lengthField
  show findScreen (n + 1) (lo8 b.lengthField :: hi8 b.lengthField :: b.id :: (b.data ++ rest)) = _
  simp only [findScreen, joinBytes_hi8_lo8]
  rw [if_neg h1, h2, if_neg (by simp), List.take_left, List.drop_left,
    show blockPage b.lengthField b.data screenSize = b.page 6912 from h3 _ (by decide)]

/-- Any fuel that covers the bytes gives the same. -/
theorem readBlocks_fuel (is128 : Bool) {n m : Nat} {bytes : List Byte} (ram : Memory) (hn : bytes.length ≤ n)
    (hm : bytes.length ≤ m) : readBlocks is128 n bytes ram = readBlocks is128 m bytes ram := by
  induction n generalizing m bytes ram with
  | zero =>
    obtain rfl : bytes = [] := List.length_eq_zero_iff.mp (by omega)
    cases m <;> simp [readBlocks]
  | succ n ih =>
    rcases bytes with _ | ⟨l, _ | ⟨h, _ | ⟨id, rest⟩⟩⟩
    · cases m <;> simp [readBlocks]
    · cases m <;> simp [readBlocks] at *
    · cases m <;> simp [readBlocks] at *
    · cases m with
      | zero => simp at hm
      | succ m =>
        simp only [List.length_cons] at hn hm
        have hd : (rest.drop (blockLength (joinBytes h l))).length ≤ rest.length := by simp
        simp only [readBlocks]
        split
        · rfl
        · split
          · rfl
          · split
            · exact ih _ (by omega) (by omega)
            · split
              · exact ih _ (by omega) (by omega)
              · rfl

/-- The table of rule R469, read from the file's side and from the page's. -/
theorem FileBlock.isFor_iff (is128 : Bool) {bank : Nat} (b : FileBlock) (hb : bank ∈ ramPages is128) :
    b.isFor is128 bank = true ↔ pageToBank b.id is128 = some bank := by
  rcases b with ⟨id, raw, data⟩
  cases is128
  · have : ∀ id : Byte, ∀ bank ∈ [0, 2, 5],
        ([(4, 2), (5, 0), (8, 5)].contains (id.toNat, bank)) = true ↔ pageToBank id false = some bank := by decide
    simpa [FileBlock.isFor] using this id bank (by simpa [ramPages] using hb)
  · have : ∀ id : Byte, ∀ bank ∈ [0, 1, 2, 3, 4, 5, 6, 7], (id.toNat == bank + 3) = true ↔ pageToBank id true = some bank := by
      decide
    simpa [FileBlock.isFor] using this id bank (by simpa [ramPages] using hb)

theorem pageToBank_mem {is128 : Bool} {id : Byte} {bank : Nat} (h : pageToBank id is128 = some bank) :
    bank ∈ ramPages is128 := by
  have : ∀ (is128 : Bool) (id : Byte), (pageToBank id is128).all (fun bank => (ramPages is128).contains bank) = true := by
    decide
  have := this is128 id
  rw [h] at this
  simpa using this

/-- RAM with the pages of blocks put in, in the order of the file. -/
def putBlocks (is128 : Bool) : List FileBlock → Memory → Memory
  | [], ram => ram
  | b :: bs, ram => putBlocks is128 bs
    (match pageToBank b.id is128 with
      | none => ram
      | some bank => ram.setPage bank (b.page 16384))

/-- Blocks that load are put in, and the list goes on after them. -/
theorem readBlocks_blocks (is128 : Bool) {blocks : List FileBlock} (hb : ∀ b ∈ blocks, b.Loads is128) (rest : List Byte)
    (ram : Memory) {n : Nat} (hn : (blocks.flatMap FileBlock.bytes ++ rest).length ≤ n) :
    readBlocks is128 n (blocks.flatMap FileBlock.bytes ++ rest) ram =
      readBlocks is128 rest.length rest (putBlocks is128 blocks ram) := by
  induction blocks generalizing ram n with
  | nil => exact readBlocks_fuel _ _ (by simpa using hn) (Nat.le_refl _)
  | cons b bs ih =>
    have hbl : b.Loads is128 := hb b (by simp)
    have e : (b :: bs).flatMap FileBlock.bytes ++ rest = b.bytes ++ (bs.flatMap FileBlock.bytes ++ rest) := by simp
    rw [e] at hn ⊢
    rw [List.length_append, b.length_bytes] at hn
    cases n with
    | zero => omega
    | succ n =>
      rw [readBlocks_block _ _ hbl.1]
      cases hp : pageToBank b.id is128 with
      | none =>
        simp only [putBlocks, hp]
        exact ih (fun b h => hb b (by simp [h])) _ (by omega)
      | some bank =>
        have hm := pageToBank_mem hp
        have hl : (b.page 16384).length = pageSize := hbl.2 bank hm ((b.isFor_iff _ hm).2 hp)
        simp only [putBlocks, hp]
        rw [if_pos hl]
        exact ih (fun b h => hb b (by simp [h])) _ (by omega)

/-- A page after the blocks: the last block for it, or what it held. -/
theorem page_putBlocks (is128 : Bool) {blocks : List FileBlock} (hb : ∀ b ∈ blocks, b.Loads is128) (ram : Memory) {bank : Nat}
    (hm : bank ∈ ramPages is128) :
    (putBlocks is128 blocks ram).page bank =
      ((blocks.reverse.find? (·.isFor is128 bank)).map (·.page 16384)).getD (ram.page bank) := by
  induction blocks generalizing ram with
  | nil => simp [putBlocks]
  | cons b bs ih =>
    rw [putBlocks, ih (fun b h => hb b (by simp [h])), List.reverse_cons, List.find?_append]
    cases bs.reverse.find? (·.isFor is128 bank) with
    | some x => simp
    | none =>
      simp only [Option.map_none, Option.getD_none, Option.none_or]
      by_cases hi : b.isFor is128 bank = true
      · rw [(b.isFor_iff _ hm).1 hi]
        simp only [List.find?_cons, hi, Option.map_some, Option.getD_some]
        exact Memory.page_setPage _ _ ((hb b (by simp)).2 bank hm hi)
      · simp only [List.find?_cons, Bool.not_eq_true _ ▸ hi, List.find?_nil, Option.map_none, Option.getD_none]
        cases hp : pageToBank b.id is128 with
        | none => rfl
        | some bank' =>
          have hne : bank ≠ bank' := by
            rintro rfl
            exact hi ((b.isFor_iff _ hm).2 hp)
          have hm' := pageToBank_mem hp
          exact Memory.page_setPage_ne _ hne ((hb b (by simp)).2 bank' hm' ((b.isFor_iff _ hm').2 hp))

theorem readBlocks_end {tail : List Byte} (h : FileEnd tail) (is128 : Bool) (ram : Memory) :
    readBlocks is128 tail.length tail ram = some ram := by
  cases h with
  | eof => rfl
  | terminator id rest => simp [readBlocks, joinBytes]

end Sys2Proof.Machine
end

