-- ==== Sys2Proof/Laws/Timing.lean ====
section
/-! SUPPORT. The base cost of an instruction is the one its form is given by the table of rule R593. -/

namespace Sys2Proof.Machine

theorem timed_baseCost {s : State} {i : Instr} {n : Nat} (h : Timed s i n) : baseCost i s = n := by
  induction h with
  | arithmetic op x h =>
    simp only [List.mem_cons, List.not_mem_nil, or_false] at h
    rcases h with rfl|rfl|rfl|rfl|rfl|rfl|rfl|rfl <;> rcases x with _|_|_|_|⟨_,_|_⟩ <;> rfl
  | counting op x h =>
    simp only [List.mem_cons, List.not_mem_nil, or_false] at h
    rcases h with rfl|rfl <;> rcases x with _|_|_|⟨_,_|_⟩ <;> rfl
  | shifting o x => cases o <;> cases x <;> rfl
  | setting op b x h =>
    simp only [List.mem_cons, List.not_mem_nil, or_false] at h
    rcases h with rfl|rfl <;> cases x <;> rfl
  | prefixed xy i p n hi h ih =>
    simp only [List.mem_cons, List.not_mem_nil, or_false] at h
    rcases h with rfl|rfl|rfl <;> simp [baseCost, ih, Nat.add_comm]
  | taken cc e nn p hc h =>
    have hc' : s.cond cc = true := by cases cc <;> simp_all [Cond.Holds, State.cond, flagZ, flagC, flagPV, flagS]
    simp only [List.mem_cons, List.not_mem_nil, or_false] at h
    rcases h with rfl|rfl|rfl <;> simp [baseCost, hc']
  | notTaken cc e nn p hc h =>
    have hc' : s.cond cc = false := by cases cc <;> simp_all [Cond.Holds, State.cond, flagZ, flagC, flagPV, flagS]
    simp only [List.mem_cons, List.not_mem_nil, or_false] at h
    rcases h with rfl|rfl|rfl <;> simp [baseCost, hc']
  | loops e hb =>
    have : s.main.b - 1 ≠ 0 := by intro h; apply hb; bv_omega
    simp only [baseCost]; rw [if_pos this]
  | ends e hb => simp [baseCost, hb]
  | copyAgain i hb h =>
    have : s.bc - 1 ≠ 0 := by have : s.bc = s.word .bc := rfl; rw [this]; intro h; apply hb; bv_omega
    simp only [List.mem_cons, List.not_mem_nil, or_false] at h
    rcases h with rfl|rfl <;> (simp only [baseCost]; rw [if_pos this])
  | copyLast i hb h =>
    have : s.bc = 1 := hb
    simp only [List.mem_cons, List.not_mem_nil, or_false] at h
    rcases h with rfl|rfl <;> simp [baseCost, this]
  | portAgain i hb h =>
    have : s.main.b - 1 ≠ 0 := by intro h; apply hb; bv_omega
    simp only [List.mem_cons, List.not_mem_nil, or_false] at h
    rcases h with rfl|rfl|rfl|rfl <;> (simp only [baseCost]; rw [if_pos this])
  | portLast i hb h =>
    simp only [List.mem_cons, List.not_mem_nil, or_false] at h
    rcases h with rfl|rfl|rfl|rfl <;> simp [baseCost, hb]
  | searchAgain i hb h =>
    have : s.compareRepeats = true := by
      have e1 : s.bc = s.word .bc := rfl
      have e2 : s.hl = s.word .hl := rfl
      obtain ⟨h1, h2⟩ := hb
      simp only [State.compareRepeats]
      rw [e1, e2]
      generalize s.word .bc = w at *
      generalize s.memRead _ = x at *
      generalize s.main.a = y at *
      have h3 : w - 1 ≠ 0 := by intro h; apply h1; bv_omega
      have h4 : y - x ≠ 0 := by intro h; apply h2; bv_omega
      simpa using ⟨h3, h4⟩
    simp only [List.mem_cons, List.not_mem_nil, or_false] at h
    rcases h with rfl|rfl <;> simp [baseCost, this]
  | searchLast i hb h =>
    have : s.compareRepeats = false := by
      have e1 : s.bc = s.word .bc := rfl
      have e2 : s.hl = s.word .hl := rfl
      simp only [State.compareRepeats]
      rw [e1, e2]
      rcases hb with hb | hb <;> simp [hb]
    simp only [List.mem_cons, List.not_mem_nil, or_false] at h
    rcases h with rfl|rfl <;> simp [baseCost, this]
  | _ =>
    first
    | rfl
    | (rename_i h
       simp only [List.mem_cons, List.not_mem_nil, or_false] at h
       casesm* _ ∨ _ <;> subst_vars <;> rfl)

end Sys2Proof.Machine
end

