-- ==== Sys2Proof/Tests/Slice0.lean ====
section
/-! SUPPORT. The model's own tests: well-formedness, decoding from words written out from spec/opcode_table.json, single steps
taken from the vectors of spec/95_test_vectors.md, and a witness for the hypotheses of every statement. -/

namespace Sys2Proof.Tests

open Sys2Proof.Machine

/-! ## Well-formedness: one ill-formed term for each check -/

theorem test_wf_refuses :
    (Instr.jrCcE .po 0).wf = false ∧ (Instr.ldPP .ix .b .c).wf = false ∧ (Instr.negCopies 0).wf = false ∧
    (Instr.im0Copies 0).wf = false ∧ (Instr.retnCopies 0).wf = false ∧ (Instr.retnCopies 1).wf = false ∧
    (Instr.edNop 0x44).wf = false ∧ (Instr.edNop 0xA0).wf = false ∧ (Instr.bitBXYdCopies .ix 0 0 6).wf = false ∧
    (Instr.indexAgain .ix .nop).wf = false ∧ (Instr.edAfterIndex .ix .nop).wf = false ∧
    (Instr.indexNoEffect .ix .ldi).wf = false ∧ (Instr.indexNoEffect .ix (.ldRR .h .b)).wf = false ∧
    (Instr.indexNoEffect .ix .addHL).wf = false ∧ (Instr.indexAgain .ix (.indexAgain .iy .nop)).wf = false := by decide

theorem test_wf_accepts :
    (Instr.jrCcE .c 0).wf = true ∧ (Instr.ldPP .ix .xyh .c).wf = true ∧ (Instr.negCopies 7).wf = true ∧
    (Instr.im0Copies 1).wf = true ∧ (Instr.retnCopies 7).wf = true ∧ (Instr.edNop 0xFF).wf = true ∧
    (Instr.indexAgain .ix (.indexAgain .iy .prefixDD)).wf = true ∧ (Instr.edAfterIndex .iy .ldi).wf = true ∧
    (Instr.indexNoEffect .ix .exDEHL).wf = true := by decide

/-! ## Decoding: every row of the opcode table, the word written out from its encoding -/

theorem test_decode_general_1 :
    decode [0b00000000] = .ok (.nop, []) ∧
    decode [0b00100111] = .ok (.daa, []) ∧
    decode [0b00101111] = .ok (.cpl, []) ∧
    decode [0b00110111] = .ok (.scf, []) ∧
    decode [0b00111111] = .ok (.ccf, []) ∧
    decode [0b01110110] = .ok (.halt, []) := by decide

theorem test_decode_general_2 :
    decode [0b11110011] = .ok (.di, []) ∧
    decode [0b11111011] = .ok (.ei, []) ∧
    decode [0b11101101, 0b00101010] = .ok (.edNop 0b00101010, []) ∧
    decode [0b11101101, 0b01000100] = .ok (.neg, []) ∧
    decode [0b11101101, 0b01011100] = .ok (.negCopies 3, []) ∧
    decode [0b11101101, 0b01000110] = .ok (.im0, []) := by decide

theorem test_decode_general_3 :
    decode [0b11101101, 0b01010110] = .ok (.im1, []) ∧
    decode [0b11101101, 0b01011110] = .ok (.im2, []) ∧
    decode [0b11101101, 0b01101110] = .ok (.im0Copies 5, []) ∧
    decode [0b11101101, 0b01110110] = .ok (.im1Copy, []) ∧
    decode [0b11101101, 0b01111110] = .ok (.im2Copy, []) ∧
    decode [0b11101101, 0b01111111] = .ok (.edNop 0b01111111, []) := by decide

theorem test_decode_general_4 :
    decode [0b11101101, 0b10000001] = .ok (.edNop 0b10000001, []) ∧
    decode [0b11101101, 0b11001011] = .ok (.edNop 0b11001011, []) := by decide

theorem test_decode_exchange :
    decode [0b00001000] = .ok (.exAFAF, []) ∧
    decode [0b11011001] = .ok (.exx, []) ∧
    decode [0b11100011] = .ok (.exSPHL, []) ∧
    decode [0b11101011] = .ok (.exDEHL, []) ∧
    decode [0b11111101, 0b11100011] = .ok (.exSPXY .iy, []) := by decide

theorem test_decode_jump_1 :
    decode [0b00010000, 0xFB] = .ok (.djnzE 0xFB, []) ∧
    decode [0b00011000, 0xFB] = .ok (.jrE 0xFB, []) ∧
    decode [0b00110000, 0xFB] = .ok (.jrCcE .nc 0xFB, []) ∧
    decode [0b11101000] = .ok (.retCc .pe, []) ∧
    decode [0b11001001] = .ok (.ret, []) ∧
    decode [0b11101001] = .ok (.jpHL, []) := by decide

theorem test_decode_jump_2 :
    decode [0b11101010, 0x34, 0x12] = .ok (.jpCcNN .pe 0x1234, []) ∧
    decode [0b11000011, 0x34, 0x12] = .ok (.jpNN 0x1234, []) ∧
    decode [0b11101100, 0x34, 0x12] = .ok (.callCcNN .pe 0x1234, []) ∧
    decode [0b11001101, 0x34, 0x12] = .ok (.callNN 0x1234, []) ∧
    decode [0b11110111] = .ok (.rstP 6, []) ∧
    decode [0b11101101, 0b01000101] = .ok (.retn, []) := by decide

theorem test_decode_jump_3 :
    decode [0b11101101, 0b01001101] = .ok (.reti, []) ∧
    decode [0b11101101, 0b01011101] = .ok (.retnCopies 3, []) ∧
    decode [0b11011101, 0b11101001] = .ok (.jpXY .ix, []) := by decide

theorem test_decode_load16_1 :
    decode [0b00110001, 0x34, 0x12] = .ok (.ldDDNN .sp 0x1234, []) ∧
    decode [0b00100010, 0x34, 0x12] = .ok (.ldNNHL 0x1234, []) ∧
    decode [0b00101010, 0x34, 0x12] = .ok (.ldHLNN 0x1234, []) ∧
    decode [0b11110001] = .ok (.popQQ .af, []) ∧
    decode [0b11111001] = .ok (.ldSPHL, []) ∧
    decode [0b11110101] = .ok (.pushQQ .af, []) := by decide

theorem test_decode_load16_2 :
    decode [0b11101101, 0b01110011, 0x34, 0x12] = .ok (.ldNNDD 0x1234 .sp, []) ∧
    decode [0b11101101, 0b01111011, 0x34, 0x12] = .ok (.ldDDMem .sp 0x1234, []) ∧
    decode [0b11111101, 0b00100001, 0x34, 0x12] = .ok (.ldXYNN .iy 0x1234, []) ∧
    decode [0b11011101, 0b00100010, 0x34, 0x12] = .ok (.ldNNXY .ix 0x1234, []) ∧
    decode [0b11111101, 0b00101010, 0x34, 0x12] = .ok (.ldXYMem .iy 0x1234, []) ∧
    decode [0b11111101, 0b11100001] = .ok (.popXY .iy, []) := by decide

theorem test_decode_load16_3 :
    decode [0b11011101, 0b11100101] = .ok (.pushXY .ix, []) ∧
    decode [0b11111101, 0b11111001] = .ok (.ldSPXY .iy, []) := by decide

theorem test_decode_alu16_1 :
    decode [0b00111001] = .ok (.addHLSS .sp, []) ∧
    decode [0b00110011] = .ok (.incSS .sp, []) ∧
    decode [0b00111011] = .ok (.decSS .sp, []) ∧
    decode [0b11101101, 0b01110010] = .ok (.sbcHLSS .sp, []) ∧
    decode [0b11101101, 0b01111010] = .ok (.adcHLSS .sp, []) ∧
    decode [0b11011101, 0b00101001] = .ok (.addXYPP .ix .xy, []) := by decide

theorem test_decode_alu16_2 :
    decode [0b11011101, 0b00100011] = .ok (.incXY .ix, []) ∧
    decode [0b11111101, 0b00101011] = .ok (.decXY .iy, []) := by decide

theorem test_decode_load8_1 :
    decode [0b00000010] = .ok (.ldBCA, []) ∧
    decode [0b00001010] = .ok (.ldABC, []) ∧
    decode [0b00010010] = .ok (.ldDEA, []) ∧
    decode [0b00011010] = .ok (.ldADE, []) ∧
    decode [0b00110010, 0x34, 0x12] = .ok (.ldNNA 0x1234, []) ∧
    decode [0b00111010, 0x34, 0x12] = .ok (.ldANN 0x1234, []) := by decide

theorem test_decode_load8_2 :
    decode [0b00010110, 0x5A] = .ok (.ldRN .d 0x5A, []) ∧
    decode [0b00110110, 0x5A] = .ok (.ldHLN 0x5A, []) ∧
    decode [0b01010101] = .ok (.ldRR .d .l, []) ∧
    decode [0b01010110] = .ok (.ldRHL .d, []) ∧
    decode [0b01110101] = .ok (.ldHLR .l, []) ∧
    decode [0b11101101, 0b01000111] = .ok (.ldIA, []) := by decide

theorem test_decode_load8_3 :
    decode [0b11101101, 0b01001111] = .ok (.ldRA, []) ∧
    decode [0b11101101, 0b01010111] = .ok (.ldAI, []) ∧
    decode [0b11101101, 0b01011111] = .ok (.ldAR, []) ∧
    decode [0b11011101, 0b00100110, 0x5A] = .ok (.ldXYHN .ix 0x5A, []) ∧
    decode [0b11111101, 0b00101110, 0x5A] = .ok (.ldXYLN .iy 0x5A, []) ∧
    decode [0b11011101, 0b00110110, 0xFE, 0x5A] = .ok (.ldXYdN .ix 0xFE 0x5A, []) := by decide

theorem test_decode_load8_4 :
    decode [0b11111101, 0b01010110, 0xFE] = .ok (.ldRXYd .iy .d 0xFE, []) ∧
    decode [0b11011101, 0b01110101, 0xFE] = .ok (.ldXYdR .ix .l 0xFE, []) ∧
    decode [0b11111101, 0b01100001] = .ok (.ldPP .iy .xyh .c, []) := by decide

theorem test_decode_alu8_1 :
    decode [0b00010100] = .ok (.incR .d, []) ∧
    decode [0b00110100] = .ok (.incHL, []) ∧
    decode [0b00010101] = .ok (.decR .d, []) ∧
    decode [0b00110101] = .ok (.decHL, []) ∧
    decode [0b10000101] = .ok (.addR .l, []) ∧
    decode [0b10000110] = .ok (.addHL, []) := by decide

theorem test_decode_alu8_2 :
    decode [0b10001101] = .ok (.adcR .l, []) ∧
    decode [0b10001110] = .ok (.adcHL, []) ∧
    decode [0b10010101] = .ok (.subR .l, []) ∧
    decode [0b10010110] = .ok (.subHL, []) ∧
    decode [0b10011101] = .ok (.sbcR .l, []) ∧
    decode [0b10011110] = .ok (.sbcHL, []) := by decide

theorem test_decode_alu8_3 :
    decode [0b10100101] = .ok (.andR .l, []) ∧
    decode [0b10100110] = .ok (.andHL, []) ∧
    decode [0b10101101] = .ok (.xorR .l, []) ∧
    decode [0b10101110] = .ok (.xorHL, []) ∧
    decode [0b10110101] = .ok (.orR .l, []) ∧
    decode [0b10110110] = .ok (.orHL, []) := by decide

theorem test_decode_alu8_4 :
    decode [0b10111101] = .ok (.cpR .l, []) ∧
    decode [0b10111110] = .ok (.cpHL, []) ∧
    decode [0b11000110, 0x5A] = .ok (.addN 0x5A, []) ∧
    decode [0b11001110, 0x5A] = .ok (.adcN 0x5A, []) ∧
    decode [0b11010110, 0x5A] = .ok (.subN 0x5A, []) ∧
    decode [0b11011110, 0x5A] = .ok (.sbcN 0x5A, []) := by decide

theorem test_decode_alu8_5 :
    decode [0b11100110, 0x5A] = .ok (.andN 0x5A, []) ∧
    decode [0b11101110, 0x5A] = .ok (.xorN 0x5A, []) ∧
    decode [0b11110110, 0x5A] = .ok (.orN 0x5A, []) ∧
    decode [0b11111110, 0x5A] = .ok (.cpN 0x5A, []) ∧
    decode [0b11011101, 0b00100100] = .ok (.incXYH .ix, []) ∧
    decode [0b11111101, 0b00100101] = .ok (.decXYH .iy, []) := by decide

theorem test_decode_alu8_6 :
    decode [0b11011101, 0b00101100] = .ok (.incXYL .ix, []) ∧
    decode [0b11111101, 0b00101101] = .ok (.decXYL .iy, []) ∧
    decode [0b11011101, 0b00110100, 0xFE] = .ok (.incXYd .ix 0xFE, []) ∧
    decode [0b11111101, 0b00110101, 0xFE] = .ok (.decXYd .iy 0xFE, []) ∧
    decode [0b11011101, 0b10000110, 0xFE] = .ok (.addXYd .ix 0xFE, []) ∧
    decode [0b11111101, 0b10000100] = .ok (.addXYH .iy, []) := by decide

theorem test_decode_alu8_7 :
    decode [0b11011101, 0b10000101] = .ok (.addXYL .ix, []) ∧
    decode [0b11111101, 0b10001110, 0xFE] = .ok (.adcXYd .iy 0xFE, []) ∧
    decode [0b11011101, 0b10001100] = .ok (.adcXYH .ix, []) ∧
    decode [0b11111101, 0b10001101] = .ok (.adcXYL .iy, []) ∧
    decode [0b11011101, 0b10010110, 0xFE] = .ok (.subXYd .ix 0xFE, []) ∧
    decode [0b11111101, 0b10010100] = .ok (.subXYH .iy, []) := by decide

theorem test_decode_alu8_8 :
    decode [0b11011101, 0b10010101] = .ok (.subXYL .ix, []) ∧
    decode [0b11111101, 0b10011110, 0xFE] = .ok (.sbcXYd .iy 0xFE, []) ∧
    decode [0b11011101, 0b10011100] = .ok (.sbcXYH .ix, []) ∧
    decode [0b11111101, 0b10011101] = .ok (.sbcXYL .iy, []) ∧
    decode [0b11011101, 0b10100110, 0xFE] = .ok (.andXYd .ix 0xFE, []) ∧
    decode [0b11111101, 0b10100100] = .ok (.andXYH .iy, []) := by decide

theorem test_decode_alu8_9 :
    decode [0b11011101, 0b10100101] = .ok (.andXYL .ix, []) ∧
    decode [0b11111101, 0b10101110, 0xFE] = .ok (.xorXYd .iy 0xFE, []) ∧
    decode [0b11011101, 0b10101100] = .ok (.xorXYH .ix, []) ∧
    decode [0b11111101, 0b10101101] = .ok (.xorXYL .iy, []) ∧
    decode [0b11011101, 0b10110110, 0xFE] = .ok (.orXYd .ix 0xFE, []) ∧
    decode [0b11111101, 0b10110100] = .ok (.orXYH .iy, []) := by decide

theorem test_decode_alu8_10 :
    decode [0b11011101, 0b10110101] = .ok (.orXYL .ix, []) ∧
    decode [0b11111101, 0b10111110, 0xFE] = .ok (.cpXYd .iy 0xFE, []) ∧
    decode [0b11011101, 0b10111100] = .ok (.cpXYH .ix, []) ∧
    decode [0b11111101, 0b10111101] = .ok (.cpXYL .iy, []) := by decide

theorem test_decode_rotate_1 :
    decode [0b00000111] = .ok (.rlca, []) ∧
    decode [0b00001111] = .ok (.rrca, []) ∧
    decode [0b00010111] = .ok (.rla, []) ∧
    decode [0b00011111] = .ok (.rra, []) ∧
    decode [0b11001011, 0b00000101] = .ok (.rlcR .l, []) ∧
    decode [0b11001011, 0b00000110] = .ok (.rlcHL, []) := by decide

theorem test_decode_rotate_2 :
    decode [0b11001011, 0b00001101] = .ok (.rrcR .l, []) ∧
    decode [0b11001011, 0b00001110] = .ok (.rrcHL, []) ∧
    decode [0b11001011, 0b00010101] = .ok (.rlR .l, []) ∧
    decode [0b11001011, 0b00010110] = .ok (.rlHL, []) ∧
    decode [0b11001011, 0b00011101] = .ok (.rrR .l, []) ∧
    decode [0b11001011, 0b00011110] = .ok (.rrHL, []) := by decide

theorem test_decode_rotate_3 :
    decode [0b11001011, 0b00100101] = .ok (.slaR .l, []) ∧
    decode [0b11001011, 0b00100110] = .ok (.slaHL, []) ∧
    decode [0b11001011, 0b00101101] = .ok (.sraR .l, []) ∧
    decode [0b11001011, 0b00101110] = .ok (.sraHL, []) ∧
    decode [0b11001011, 0b00110101] = .ok (.sllR .l, []) ∧
    decode [0b11001011, 0b00110110] = .ok (.sllHL, []) := by decide

theorem test_decode_rotate_4 :
    decode [0b11001011, 0b00111101] = .ok (.srlR .l, []) ∧
    decode [0b11001011, 0b00111110] = .ok (.srlHL, []) ∧
    decode [0b11101101, 0b01100111] = .ok (.rrd, []) ∧
    decode [0b11101101, 0b01101111] = .ok (.rld, []) ∧
    decode [0b11011101, 0b11001011, 0xFE, 0b00000110] = .ok (.rlcXYd .ix 0xFE, []) ∧
    decode [0b11111101, 0b11001011, 0xFE, 0b00000101] = .ok (.rlcXYdR .iy 0xFE .l, []) := by decide

theorem test_decode_rotate_5 :
    decode [0b11011101, 0b11001011, 0xFE, 0b00001110] = .ok (.rrcXYd .ix 0xFE, []) ∧
    decode [0b11111101, 0b11001011, 0xFE, 0b00001101] = .ok (.rrcXYdR .iy 0xFE .l, []) ∧
    decode [0b11011101, 0b11001011, 0xFE, 0b00010110] = .ok (.rlXYd .ix 0xFE, []) ∧
    decode [0b11111101, 0b11001011, 0xFE, 0b00010101] = .ok (.rlXYdR .iy 0xFE .l, []) ∧
    decode [0b11011101, 0b11001011, 0xFE, 0b00011110] = .ok (.rrXYd .ix 0xFE, []) ∧
    decode [0b11111101, 0b11001011, 0xFE, 0b00011101] = .ok (.rrXYdR .iy 0xFE .l, []) := by decide

theorem test_decode_rotate_6 :
    decode [0b11011101, 0b11001011, 0xFE, 0b00100110] = .ok (.slaXYd .ix 0xFE, []) ∧
    decode [0b11111101, 0b11001011, 0xFE, 0b00100101] = .ok (.slaXYdR .iy 0xFE .l, []) ∧
    decode [0b11011101, 0b11001011, 0xFE, 0b00101110] = .ok (.sraXYd .ix 0xFE, []) ∧
    decode [0b11111101, 0b11001011, 0xFE, 0b00101101] = .ok (.sraXYdR .iy 0xFE .l, []) ∧
    decode [0b11011101, 0b11001011, 0xFE, 0b00110110] = .ok (.sllXYd .ix 0xFE, []) ∧
    decode [0b11111101, 0b11001011, 0xFE, 0b00110101] = .ok (.sllXYdR .iy 0xFE .l, []) := by decide

theorem test_decode_rotate_7 :
    decode [0b11011101, 0b11001011, 0xFE, 0b00111110] = .ok (.srlXYd .ix 0xFE, []) ∧
    decode [0b11111101, 0b11001011, 0xFE, 0b00111101] = .ok (.srlXYdR .iy 0xFE .l, []) := by decide

theorem test_decode_lookup :
    decode [0b11001011] = .ok (.prefixCB, []) ∧
    decode [0b11011101] = .ok (.prefixDD, []) ∧
    decode [0b11101101] = .ok (.prefixED, []) ∧
    decode [0b11111101] = .ok (.prefixFD, []) ∧
    decode [0b11011101, 0b11001011] = .ok (.prefixCBAfterIndex .ix, []) := by decide

theorem test_decode_io_1 :
    decode [0b11010011, 0x5A] = .ok (.outNA 0x5A, []) ∧
    decode [0b11011011, 0x5A] = .ok (.inAN 0x5A, []) ∧
    decode [0b11101101, 0b01010000] = .ok (.inRC .d, []) ∧
    decode [0b11101101, 0b01110000] = .ok (.inFC, []) ∧
    decode [0b11101101, 0b01010001] = .ok (.outCR .d, []) ∧
    decode [0b11101101, 0b01110001] = .ok (.outC0, []) := by decide

theorem test_decode_io_2 :
    decode [0b11101101, 0b10100010] = .ok (.ini, []) ∧
    decode [0b11101101, 0b10100011] = .ok (.outi, []) ∧
    decode [0b11101101, 0b10101010] = .ok (.ind, []) ∧
    decode [0b11101101, 0b10101011] = .ok (.outd, []) ∧
    decode [0b11101101, 0b10110010] = .ok (.inir, []) ∧
    decode [0b11101101, 0b10110011] = .ok (.otir, []) := by decide

theorem test_decode_io_3 :
    decode [0b11101101, 0b10111010] = .ok (.indr, []) ∧
    decode [0b11101101, 0b10111011] = .ok (.otdr, []) := by decide

theorem test_decode_bit_1 :
    decode [0b11001011, 0b01110101] = .ok (.bitBR 6 .l, []) ∧
    decode [0b11001011, 0b01110110] = .ok (.bitBHL 6, []) ∧
    decode [0b11001011, 0b10110101] = .ok (.resBR 6 .l, []) ∧
    decode [0b11001011, 0b10110110] = .ok (.resBHL 6, []) ∧
    decode [0b11001011, 0b11110101] = .ok (.setBR 6 .l, []) ∧
    decode [0b11001011, 0b11110110] = .ok (.setBHL 6, []) := by decide

theorem test_decode_bit_2 :
    decode [0b11011101, 0b11001011, 0xFE, 0b01110110] = .ok (.bitBXYd .ix 0xFE 6, []) ∧
    decode [0b11111101, 0b11001011, 0xFE, 0b01110011] = .ok (.bitBXYdCopies .iy 0xFE 6 3, []) ∧
    decode [0b11011101, 0b11001011, 0xFE, 0b10110110] = .ok (.resBXYd .ix 0xFE 6, []) ∧
    decode [0b11111101, 0b11001011, 0xFE, 0b10110101] = .ok (.resBXYdR .iy 0xFE 6 .l, []) ∧
    decode [0b11011101, 0b11001011, 0xFE, 0b11110110] = .ok (.setBXYd .ix 0xFE 6, []) ∧
    decode [0b11111101, 0b11001011, 0xFE, 0b11110101] = .ok (.setBXYdR .iy 0xFE 6 .l, []) := by decide

theorem test_decode_block_1 :
    decode [0b11101101, 0b10100000] = .ok (.ldi, []) ∧
    decode [0b11101101, 0b10100001] = .ok (.cpi, []) ∧
    decode [0b11101101, 0b10101000] = .ok (.ldd, []) ∧
    decode [0b11101101, 0b10101001] = .ok (.cpd, []) ∧
    decode [0b11101101, 0b10110000] = .ok (.ldir, []) ∧
    decode [0b11101101, 0b10110001] = .ok (.cpir, []) := by decide

theorem test_decode_block_2 :
    decode [0b11101101, 0b10111000] = .ok (.lddr, []) ∧
    decode [0b11101101, 0b10111001] = .ok (.cpdr, []) := by decide

theorem test_decode_prefix :
    decode [0b11011101, 0b11111101, 0b00100001, 0x34, 0x12] = .ok (.indexAgain .ix (.ldXYNN .iy 0x1234), []) ∧
    decode [0b11111101, 0b11101101, 0b10110000] = .ok (.edAfterIndex .iy .ldir, []) ∧
    decode [0b11011101, 0b01000001] = .ok (.indexNoEffect .ix (.ldRR .b .c), []) ∧
    decode [0b11011101, 0b11101011] = .ok (.indexNoEffect .ix .exDEHL, []) ∧
    decode [0b11011101, 0b01110110] = .ok (.indexNoEffect .ix .halt, []) := by decide

theorem test_decode_stops :
    decode [] = .error .outOfBytes ∧ decode [0x01, 0x34] = .error .outOfBytes ∧
    decode [0xDD, 0xCB, 0x12] = .error .outOfBytes ∧ decode [0x3E, 0x5A, 0x77] = .ok (.ldRN .a 0x5A, [0x77]) := by decide

theorem test_decodeTableWord :
    decodeTableWord 16 0xB0ED = some .ldir ∧ decodeTableWord 8 0xCB = some .prefixCB ∧
    decodeTableWord 24 0x1234C3 = some (.jpNN 0x1234) ∧ decodeTableWord 32 0xC7FFCBFD = some (.setBXYdR .iy 0xFF 0 .a) ∧
    decodeTableWord 8 0x01 = some (.ldDDNN .bc 0) := by decide

/-! ## Single steps, from the vectors of spec/95_test_vectors.md -/

/-- The default start state of spec/95_test_vectors.md. -/
def base : State :=
  { State.reset with main := Bank.zero, pc := 0x8000, portAnswers := [0xFF, 0xFF], busAnswers := [0xFF] }

def base128 : State := { base with is128 := true, memorySelect := 0 }

def withA (a f : Byte) : State := { base with main := { Bank.zero with a := a, f := f } }

def withHL (hl : Word) (s : State) : State := { s with main := { s.main with h := hi8 hl, l := lo8 hl } }

def withBC (bc : Word) (s : State) : State := { s with main := { s.main with b := hi8 bc, c := lo8 bc } }

def withDE (de : Word) (s : State) : State := { s with main := { s.main with d := hi8 de, e := lo8 de } }

/-- The code at PC. -/
def State.code (s : State) (bytes : List Byte) : State := s.placeAll s.pc bytes

/-- The state after one slot; a state that no slot leaves where a slot has no step. -/
def after (s : State) : State :=
  match step s with
  | .next t => t
  | .fault _ => { s with t := 999999 }
  | .refused _ => { s with t := 999999 }

/-- A, F, PC, T and R. -/
def seen (s : State) : Byte × Byte × Word × Nat × Byte := (s.main.a, s.main.f, s.pc, s.t, s.r)

theorem test_LD_HL_r_rom : -- V-LD8-1
    let t := after (State.code (withHL 0 (withA 0x99 0)) [0x77])
    t.memRead 0 = 0x00 ∧ seen t = (0x99, 0, 0x8001, 7, 1) := by decide
theorem test_LD_r_XYd : -- V-LD8-3: the destination is H, not IXH
    let t := after ((State.code (withHL 0x1111 { base with ix := 0x9000 }) [0xDD, 0x66, 0x01]).place 0x9001 0xAB)
    t.hl = 0xAB11 ∧ t.ix = 0x9000 ∧ t.t = 19 ∧ t.r = 2 := by decide
theorem test_LD_A_R : -- V-LD8-5
    seen (after (State.code { withA 0 1 with r := 0x7E, iff2 := true } [0xED, 0x5F])) = (0, 0x45, 0x8002, 9, 0) := by
  decide
theorem test_LD_R_A : -- V-LD8-12
    (after (State.code (withA 0xFF 0) [0xED, 0x4F])).r = 0xFF := by decide
theorem test_LD_p_p : -- V-LD8-9
    (after (State.code { base with iy := 0xAB12 } [0xFD, 0x6C])).iy = 0xABAB := by decide
theorem test_LD_A_nn : -- V-LD8-11
    (after ((State.code base [0x3A, 0xFF, 0xFF]).place 0xFFFF 0x77)).main.a = 0x77 := by decide
theorem test_PUSH_wraps : -- V-LD16-1
    let t := after (State.code (withBC 0x1234 { base with sp := 1 }) [0xC5])
    t.sp = 0xFFFF ∧ t.memRead 0 = 0 ∧ t.memRead 0xFFFF = 0x34 ∧ t.t = 11 := by decide
theorem test_POP_AF : -- V-LD16-3
    let t := after (((State.code { base with sp := 0x9000 } [0xF1]).place 0x9000 0xFF).place 0x9001 0x80)
    seen t = (0x80, 0xFF, 0x8001, 10, 1) ∧ t.sp = 0x9002 := by decide
theorem test_LD_nn_HL_across_rom : -- V-LD16-4
    let t := after (State.code (withHL 0xABCD base) [0x22, 0xFF, 0x3F])
    t.memRead 0x3FFF = 0 ∧ t.memRead 0x4000 = 0xAB ∧ t.t = 16 := by decide
theorem test_LD_dd_mem : -- V-LD16-6
    (after (((State.code base [0xED, 0x6B, 0x00, 0x90]).place 0x9000 0x78).place 0x9001 0x56)).hl = 0x5678 := by decide
theorem test_EX_SP_HL : -- V-BLK-1
    let t := after (((State.code (withHL 0x1234 { base with sp := 0x9000 }) [0xE3]).place 0x9000 0x78).place 0x9001 0x56)
    t.hl = 0x5678 ∧ t.memRead16 0x9000 = 0x1234 ∧ t.sp = 0x9000 ∧ t.t = 19 := by decide
theorem test_EXX : -- V-BLK-13
    let t := after (State.code { withBC 0x0102 (withA 0x11 0) with shadow := ⟨0x22, 0, 0xA1, 0xA2, 0, 0, 0, 0⟩ } [0xD9])
    t.bc = 0xA1A2 ∧ t.shadow.bc = 0x0102 ∧ t.main.a = 0x11 ∧ t.shadow.a = 0x22 := by decide
theorem test_LDI : -- V-BLK-3
    let t := after ((State.code (withHL 0x9000 (withDE 0xA000 (withBC 1 (withA 0 0xFF)))) [0xED, 0xA0]).place 0x9000 0x0A)
    t.hl = 0x9001 ∧ t.de = 0xA001 ∧ t.bc = 0 ∧ t.memRead 0xA000 = 0x0A ∧ seen t = (0, 0xE9, 0x8002, 16, 2) := by decide
theorem test_LDIR_repeats : -- V-BLK-7
    let t := after ((State.code (withHL 0x9000 (withDE 0xA000 base)) [0xED, 0xB0]).place 0x9000 0x11)
    t.bc = 0xFFFF ∧ t.memRead 0xA000 = 0x11 ∧ seen t = (0, 0x04, 0x8000, 21, 2) := by decide
theorem test_CPI : -- V-BLK-10
    let t := after ((State.code (withHL 0x9000 (withBC 5 (withA 0x10 0))) [0xED, 0xA1]).place 0x9000 0x01)
    t.hl = 0x9001 ∧ t.bc = 4 ∧ seen t = (0x10, 0x3E, 0x8002, 16, 2) := by decide
theorem test_ADD : -- V-ALU8-1, the document's T1
    seen (after (State.code (withA 0x80 0) [0x87])) = (0x00, 0x45, 0x8001, 4, 1) := by decide
theorem test_ADC : -- V-ALU8-5
    seen (after (State.code (withA 0 1) [0xCE, 0x0F])) = (0x10, 0x10, 0x8002, 7, 1) := by decide
theorem test_SUB : -- V-ALU8-7
    seen (after (State.code (withA 0x80 0) [0xD6, 0x01])) = (0x7F, 0x3E, 0x8002, 7, 1) := by decide
theorem test_SBC : -- V-ALU8-8
    seen (after (State.code (withA 0x42 1) [0x9F])) = (0xFF, 0xBB, 0x8001, 4, 1) := by decide
theorem test_CP : -- V-ALU8-10
    seen (after (State.code (withA 0 0) [0xFE, 0x28])) = (0x00, 0xBB, 0x8002, 7, 1) := by decide
theorem test_AND : -- V-ALU8-12
    seen (after (State.code (withA 0xF0 1) [0xE6, 0x0F])) = (0x00, 0x54, 0x8002, 7, 1) := by decide
theorem test_XOR : -- V-ALU8-13
    seen (after (State.code (withA 0x5A 0xFF) [0xAF])) = (0x00, 0x44, 0x8001, 4, 1) := by decide
theorem test_OR : -- V-ALU8-14
    seen (after (State.code (withA 1 1) [0xF6, 0x80])) = (0x81, 0x84, 0x8002, 7, 1) := by decide
theorem test_INC : -- V-ALU8-15
    seen (after (State.code (withA 0x7F 1) [0x3C])) = (0x80, 0x95, 0x8001, 4, 1) := by decide
theorem test_DEC : -- V-ALU8-17
    seen (after (State.code (withA 0x80 0) [0x3D])) = (0x7F, 0x3E, 0x8001, 4, 1) := by decide
theorem test_DAA : -- V-GEN-1 (the document's T3), V-GEN-5
    seen (after (State.code (withA 0x0F 0x10) [0x27])) = (0x15, 0x10, 0x8001, 4, 1) ∧
    seen (after (State.code (withA 0xFF 0x02) [0x27])) = (0x99, 0x8F, 0x8001, 4, 1) := by decide
theorem test_CPL : -- V-GEN-7
    seen (after (State.code (withA 0x5A 0xC5) [0x2F])) = (0xA5, 0xF7, 0x8001, 4, 1) := by decide
theorem test_NEG : -- V-GEN-8
    seen (after (State.code (withA 0x80 0) [0xED, 0x44])) = (0x80, 0x87, 0x8002, 8, 2) := by decide
theorem test_CCF : -- V-GEN-11
    seen (after (State.code (withA 0x28 1) [0x3F])) = (0x28, 0x38, 0x8001, 4, 1) := by decide
theorem test_SCF : -- V-GEN-13
    seen (after (State.code (withA 0xFF 0xD6) [0x37])) = (0xFF, 0xED, 0x8001, 4, 1) := by decide
theorem test_EI : -- V-GEN-15, its first slot
    let t := after (State.code base [0xFB])
    t.iff1 = true ∧ t.iff2 = true ∧ t.eiDelay = true := by decide
theorem test_SLL : -- V-ROT-9
    seen (after (State.code (withA 0x80 0) [0xCB, 0x37])) = (0x01, 0x01, 0x8002, 8, 2) := by decide
theorem test_shift_flags : -- the examples of rules R345 to R351, R353
    let run := fun (k : Bank) (code : List Byte) => (after (State.code { base with main := k } code)).main
    run { Bank.zero with b := 0x80 } [0xCB, 0x00] = { Bank.zero with b := 0x01, f := 0x01 } ∧
    run { Bank.zero with c := 0x01 } [0xCB, 0x09] = { Bank.zero with c := 0x80, f := 0x81 } ∧
    run { Bank.zero with d := 0x80 } [0xCB, 0x12] = { Bank.zero with d := 0x00, f := 0x45 } ∧
    run { Bank.zero with e := 0x01 } [0xCB, 0x1B] = { Bank.zero with e := 0x00, f := 0x45 } ∧
    run { Bank.zero with h := 0xC0 } [0xCB, 0x24] = { Bank.zero with h := 0x80, f := 0x81 } ∧
    run { Bank.zero with l := 0x81 } [0xCB, 0x2D] = { Bank.zero with l := 0xC0, f := 0x85 } ∧
    run { Bank.zero with a := 0x81 } [0xCB, 0x37] = { Bank.zero with a := 0x03, f := 0x05 } ∧
    run { Bank.zero with a := 0x01 } [0xCB, 0x3F] = { Bank.zero with a := 0x00, f := 0x45 } ∧
    run { Bank.zero with a := 0xFF } [0xCB, 0x3F] = { Bank.zero with a := 0x7F, f := 0x29 } := by decide
theorem test_RLC_copy : -- the example of rule R352, the byte in RAM
    let t := after ((State.code { base with ix := 0x9000 } [0xDD, 0xCB, 0x01, 0x00]).place 0x9001 0x81)
    t.memRead 0x9001 = 0x03 ∧ t.main = { Bank.zero with b := 0x03, f := 0x05 } := by decide
theorem test_RLD : -- V-ROT-11
    let t := after ((State.code (withHL 0x9000 (withA 0x12 1)) [0xED, 0x6F]).place 0x9000 0x34)
    t.memRead 0x9000 = 0x42 ∧ seen t = (0x13, 0x01, 0x8002, 18, 2) := by decide
theorem test_RRD : -- V-ROT-12
    let t := after ((State.code (withHL 0x9000 (withA 0x12 0)) [0xED, 0x67]).place 0x9000 0x34)
    t.memRead 0x9000 = 0x23 ∧ seen t = (0x14, 0x04, 0x8002, 18, 2) := by decide
theorem test_BIT_HL : -- V-ROT-15
    (after (State.code (withHL 0x9028 base) [0xCB, 0x46])).main.f = 0x54 := by decide
theorem test_BIT_XYd : -- V-ROT-17
    (after (State.code { base with ix := 0x28FE } [0xDD, 0xCB, 0x02, 0x46])).main.f = 0x7C := by decide
theorem test_RES : -- V-ROT-19
    seen (after (State.code (withA 0xFF 0xA5) [0xCB, 0xBF])) = (0x7F, 0xA5, 0x8002, 8, 2) := by decide
theorem test_SET_copy : -- V-ROT-22
    let t := after ((State.code { base with iy := 0x9001 } [0xFD, 0xCB, 0xFF, 0xC7]).place 0x9000 0x80)
    t.memRead 0x9000 = 0x81 ∧ seen t = (0x81, 0, 0x8004, 23, 2) := by decide
theorem test_RLC_XYd_three : -- V-ROT-23
    let t := after ((State.code { base with
      ix := 0x9000, params := { Config.Params.default with rIncDdcb := .three } } [0xDD, 0xCB, 0x01, 0x06]).place 0x9001 0x81)
    t.memRead 0x9001 = 0x03 ∧ seen t = (0, 0x05, 0x8004, 23, 3) := by decide
theorem test_JR : -- V-CTL-6
    seen (after (State.code base [0x18, 0x80])) = (0, 0, 0x7F82, 12, 1) := by decide
theorem test_JR_not_taken : -- V-CTL-7
    seen (after (State.code (withA 0 1) [0x30, 0x05])) = (0, 1, 0x8002, 7, 1) := by decide
theorem test_DJNZ : -- V-CTL-9
    let t := after (State.code (withBC 0x0100 (withA 0 0xFF)) [0x10, 0xFE])
    t.main.b = 0 ∧ seen t = (0, 0xFF, 0x8002, 8, 1) := by decide
theorem test_JP_HL : -- V-CTL-11
    seen (after (State.code (withHL 0x1234 base) [0xE9])) = (0, 0, 0x1234, 4, 1) := by decide
theorem test_CALL : -- V-CTL-22: the push overwrites the operand
    let t := after (State.code { base with sp := 0x8003 } [0xCD, 0x00, 0x90])
    t.pc = 0x9000 ∧ t.sp = 0x8001 ∧ t.memRead16 0x8001 = 0x8003 ∧ t.t = 17 := by decide
theorem test_RET_cc : -- V-CTL-17
    let t := after (((State.code { withA 0 4 with sp := 0xA000 } [0xE8]).place 0xA000 0x34).place 0xA001 0x12)
    t.pc = 0x1234 ∧ t.sp = 0xA002 ∧ t.t = 11 := by decide
theorem test_RST : -- V-CTL-18
    let t := after (State.code { base with sp := 0xA000 } [0xFF])
    t.pc = 0x0038 ∧ t.memRead16 0x9FFE = 0x8001 ∧ t.t = 11 := by decide
theorem test_RETN : -- V-CTL-20
    let t := after ((State.code { base with sp := 0xA000, iff2 := true } [0xED, 0x45]).place 0xA001 0x90)
    t.pc = 0x9000 ∧ t.iff1 = true ∧ t.iff2 = true ∧ t.t = 14 := by decide
theorem test_IN_A_n : -- V-IO-1
    let t := after (State.code { withA 0x7F 0 with portAnswers := [0xBF] } [0xDB, 0xFE])
    seen t = (0xBF, 0, 0x8002, 11, 1) ∧ t.trace = [.input 0xFE 0x7F] := by decide
theorem test_IN_F_C : -- V-IO-3
    let t := after (State.code { withBC 0x12FE base with portAnswers := [0xA8] } [0xED, 0x70])
    t.bc = 0x12FE ∧ seen t = (0, 0xA8, 0x8002, 12, 2) := by decide
theorem test_OUT_border : -- V-IO-4
    let t := after (State.code (withA 0x15 0) [0xD3, 0xFE])
    t.border = 5 ∧ t.trace = [.output 0xFE 0x15 0x15] := by decide
theorem test_OUT_paging : -- V-IO-5, V-IO-6
    (after (State.code (withBC 0x7FFD { base128 with main := { Bank.zero with a := 0x17 } }) [0xED, 0x79])).memorySelect = 0x17 ∧
    (after (State.code (withBC 0x7FFD (withA 0x17 0)) [0xED, 0x79])).memorySelect = 0x30 := by decide
theorem test_INI : -- V-IO-9
    let t := after (State.code { withBC 0x01FE (withHL 0x9000 base) with portAnswers := [0x7F] } [0xED, 0xA2])
    t.main.b = 0 ∧ t.memRead 0x9000 = 0x7F ∧ seen t = (0, 0x55, 0x8002, 16, 2) ∧ t.trace = [.input 0xFE 0x01] := by decide
theorem test_OUTI : -- V-IO-10
    let t := after ((State.code (withBC 0x02FE (withHL 0x9000 base)) [0xED, 0xA3]).place 0x9000 0x03)
    t.border = 3 ∧ seen t = (0, 0x04, 0x8002, 16, 2) ∧ t.trace = [.output 0xFE 0x01 0x03] := by decide
theorem test_index_prefix_keeps_AND : -- 30_encoding.md R135: a prefix in front of an instruction without HL costs 4
    seen (after (State.code (withA 0xF0 1) [0xDD, 0xE6, 0x0F])) = (0x00, 0x54, 0x8003, 11, 2) := by decide
theorem test_NMI : -- V-INT-6, its second slot
    let t := after { base with sp := 0x9000, pc := 0x8001, iff1 := true, iff2 := true, eiDelay := true, nmiPending := true }
    t.pc = 0x0066 ∧ t.memRead16 0x8FFE = 0x8001 ∧ t.iff1 = false ∧ t.iff2 = true ∧ t.t = 11 := by decide

/-- A state whose next slot is a maskable acceptance. -/
def atInt (m : IntMode) : State :=
  { base with im := m, iff1 := true, iff2 := true, intPending := true, sp := 0x9000, i := 0x90 }

theorem test_INT_mode1 : -- V-INT-1
    let t := after (atInt .im1)
    t.pc = 0x0038 ∧ t.memRead16 0x8FFE = 0x8000 ∧ t.iff1 = false ∧ t.iff2 = false ∧ t.intPending = false ∧ t.t = 13 := by
  decide
theorem test_INT_mode2 : -- V-INT-3
    let t := after (((atInt .im2).place 0x90FE 0x34).place 0x90FF 0x12)
    t.pc = 0x1234 ∧ t.memRead16 0x8FFE = 0x8000 ∧ t.t = 19 := by decide
theorem test_INT_mode0 : -- V-INT-4
    let t := after (atInt .im0)
    t.pc = 0x0038 ∧ t.memRead16 0x8FFE = 0x8000 ∧ t.t = 13 ∧ t.r = 2 := by decide
theorem test_halted : -- V-GEN-14, its second slot
    let t := after { base with halt := true, pc := 0x8001 }
    t.halt = true ∧ t.pc = 0x8001 ∧ t.t = 4 ∧ t.r = 1 := by decide

/-- T-states consumed, and PC. -/
def spent : Host.Outcome (State × Nat) Fault Refusal → Option (Nat × Word)
  | .next (t, n) => some (n, t.pc)
  | .fault _ => none
  | .refused _ => none

theorem test_budget : -- V-STEP-1, V-STEP-4
    spent (stepBudget (State.code base [0x00, 0x00, 0x3E, 0x01]) 10) = some (8, 0x8002) ∧
    spent (stepBudget (State.code (withHL 0x9000 base) [0x34]) 10) = some (0, 0x8000) := by decide
theorem test_compress : -- V-RLE-1, V-RLE-2, V-RLE-3, V-RLE-5
    compress [0, 0, 0, 0, 0] = [0xED, 0xED, 5, 0] ∧ compress [0, 0, 0, 0] = [0, 0, 0, 0] ∧
    compress [0xED, 0xED] = [0xED, 0xED, 2, 0xED] ∧
    compress [0xED, 0, 0, 0, 0, 0, 0] = [0xED, 0, 0xED, 0xED, 5, 0] := by decide
theorem test_decompress : -- V-RLE-21, V-RLE-22, V-RLE-23, V-RLE-24
    decompress [0xED, 0xED, 0, 0x41, 0x42] 16384 = [0x42] ∧ decompress [0xED, 0xED, 5, 0x41] 3 = [0x41, 0x41, 0x41] ∧
    decompress [0x41, 0, 0xED, 0xED, 0, 0x42] 16384 = [0x41] ∧ decompress [0xED, 0xED, 2] 16384 = [] := by decide
theorem test_load_fails : -- V-SNAP-10, V-SNAP-12
    base.load (List.replicate 29 0) [] = none ∧
    base.load (List.replicate 30 0 ++ [24] ++ List.replicate 24 0) [] = none := by decide
theorem test_load_header : -- V-SNAP-13: registers load, no RAM page changes
    ((base.load (0x5A :: List.replicate 29 0 ++ [23] ++ List.replicate 24 0) []).map fun t => (t.main.a, t.ram)) =
      some (0x5A, []) := by decide
theorem test_color : -- R84, bits 2, 1 and 0 of a colour are green, red and blue
    fromSpectrumColor 0x47 = 0x403F ∧ toSpectrumColor (fromSpectrumColor 0xA5) = 0xA5 := by decide

/-! ## Witnesses: for each statement, a state and operands that meet its hypotheses -/

theorem test_witness_DecodeOfEncode :
    (Instr.setBXYdR .iy 0xFF 7 .a).wf = true ∧ (Instr.setBXYdR .iy 0xFF 7 .a).complete = true ∧
    (Instr.indexAgain .ix (.edAfterIndex .iy .ldir)).wf = true ∧ (Instr.edAfterIndex .iy .prefixED).wf = true := by decide
theorem test_witness_EncodeOfDecode :
    decode [0xDD, 0xFD, 0x36, 0x80, 0x5A, 0x77] = .ok (.indexAgain .ix (.ldXYdN .iy 0x80 0x5A), [0x77]) ∧
    decode [0xFD, 0xCB] = .ok (.prefixCBAfterIndex .iy, []) := by decide
theorem test_witness_NoByteSequence :
    (∀ b ∈ [(0xDD : Byte), 0xFD], b = 0xDD ∨ b = 0xFD) ∧ (0xED : Byte) ≠ 0xDD ∧ (0xED : Byte) ≠ 0xFD ∧
    3 ≤ [(0x43 : Byte), 0x34, 0x12].length := by decide

/-- A program of one `INC A`. -/
def incA : State := State.code base [0x3C]

theorem test_witness_StepRuns :
    incA.nextSlot = .instruction ∧ 1 ≤ lookupWindow ∧ decode (incA.bytesFrom 1 incA.pc) = .ok (.incR .a, []) ∧
    (Instr.incR .a).complete = true := by decide
theorem test_witness_PrefixBytes :
    Instr.prefixCB.complete = false ∧
    decode (Instr.prefixCB.encode ++ (State.code base [0x07]).bytesFrom 1 0x8000) = .ok (.rlcR .a, []) ∧
    (Instr.indexAgain .ix .prefixFD).complete = false ∧
    decode ((Instr.indexAgain .ix .prefixFD).encode ++ (State.code base [0x23]).bytesFrom 1 0x8000) =
      .ok (.indexAgain .ix (.incXY .iy), []) := by decide
theorem test_witness_PrefixCBAfterIndex :
    (State.code base [0x01, 0x06]).bytesFrom 2 0x8000 = [0x01, 0x06] ∧
    decode ((Instr.prefixCBAfterIndex .iy).encode ++ [0x01, 0x06]) = .ok (.rlcXYd .iy 0x01, []) := by decide

/-- A memory of `n` prefix bytes. -/
def allPrefix (k : Nat) : Nat → Memory
  | 0 => []
  | n + 1 => (k, 0xDD) :: allPrefix (k + 1) n

theorem read_allPrefix (n : Nat) : ∀ k a, k ≤ a → a < k + n → (allPrefix k n).read a = 0xDD := by
  induction n with
  | zero => intro k a h h'; omega
  | succ n ih =>
    intro k a h h'
    unfold allPrefix Memory.read
    split
    · rfl
    · exact ih (k + 1) a (by omega) (by omega)

/-- Index prefixes in every byte of RAM and ROM. -/
def allDD : State := { base with ram := allPrefix 0 ramSize, rom := allPrefix 0 romSize }

theorem memRead_allDD {s : State} (hram : s.ram = allDD.ram) (hrom : s.rom = allDD.rom) (a : Word) : s.memRead a = 0xDD := by
  unfold State.memRead
  rw [hram, hrom]
  split
  · next p o _ =>
    refine read_allPrefix _ _ _ (Nat.zero_le _) ?_
    have := p.isLt; have := o.isLt
    simp only [pageKey, pageSize, romSize] at *; omega
  · next p o _ =>
    refine read_allPrefix _ _ _ (Nat.zero_le _) ?_
    have := p.isLt; have := o.isLt
    simp only [pageKey, pageSize, ramSize] at *; omega

theorem decodeIndexed_allDD (xy : XY) (l : List Byte) (h : ∀ b ∈ l, b = 0xDD) :
    ∃ i, decodeIndexed xy l = .ok (i, []) ∧ i.complete = false := by
  induction l generalizing xy with
  | nil => cases xy <;> exact ⟨_, rfl, rfl⟩
  | cons b l ih =>
    obtain rfl : b = 0xDD := h b (by simp)
    obtain ⟨i, h1, h2⟩ := ih .ix (fun b hb => h b (by simp [hb]))
    exact ⟨.indexAgain xy i, by simp [decodeIndexed, indexOf, h1, wrapDecoded], by simpa [Instr.complete] using h2⟩

theorem step_allDD {s : State} (hram : s.ram = allDD.ram) (hrom : s.rom = allDD.rom) (h : s.nextSlot = .instruction) :
    step s = .fault .unboundedPrefixRun := by
  have hb : ∀ n a, ∀ b ∈ s.bytesFrom n a, b = 0xDD := by
    intro n
    induction n with
    | zero => intro a b hb; simp [State.bytesFrom] at hb
    | succ n ih =>
      intro a b hb
      simp only [State.bytesFrom, List.mem_cons] at hb
      rcases hb with rfl | hb
      · exact memRead_allDD hram hrom a
      · exact ih _ b hb
  have hl : s.lookup [] = none := by
    have h1 : ([] : List Byte) ++ s.bytesFrom lookupWindow s.pc = s.memRead s.pc :: s.bytesFrom 65539 (s.pc + 1) := rfl
    obtain ⟨i, e, hi⟩ := decodeIndexed_allDD .ix _ (hb 65539 (s.pc + 1))
    have e' : decode (([] : List Byte) ++ s.bytesFrom lookupWindow s.pc) = .ok (i, []) := by
      rw [h1, memRead_allDD hram hrom]
      simpa [decode, indexOf] using e
    unfold State.lookup
    rw [e']
    simp [hi]
  unfold step State.perform
  rw [h]
  simp only
  rw [hl]

theorem test_witness_EndlessPrefixRun : (∀ a, allDD.memRead a = 0xDD ∨ allDD.memRead a = 0xFD) ∧ allDD.nextSlot = .instruction :=
  ⟨fun a => .inl (memRead_allDD rfl rfl a), rfl⟩

theorem test_witness_Complete : (Instr.indexNoEffect .ix (.jpNN 0x1234)).complete = true ∧ Instr.otdr.complete = true := by decide
theorem test_witness_Inv : incA.Inv ∧ base128.Inv :=
  ⟨⟨by decide, by decide, by decide, by decide⟩, ⟨by decide, by decide, by decide, by decide⟩⟩
theorem test_witness_Step : ∃ t, step incA = .next t := ⟨_, rfl⟩
theorem test_witness_MachineInit : Memory.wf romSize [(0, 0xF3), (0x7FFF, 1)] = true ∧ Memory.wf ramSize [(0x1FFFF, 1)] = true := by
  decide
theorem test_witness_LockedPaging :
    (∃ t, step (State.code (withBC 0x7FFD (withA 0x17 0)) [0xED, 0x79]) = .next t) ∧
    base.memorySelect.getLsbD 5 = true := ⟨⟨_, rfl⟩, rfl⟩

/-- Bytes at the edges of the four slots, ROM page 1 and RAM page 1 selected. -/
def edges : State :=
  { base128 with
    memorySelect := 0x11
    rom := [(0x4000, 1), (0x7FFF, 2)]
    ram := [(0x4000, 7), (0x7FFF, 8), (0x8000, 5), (0xBFFF, 6), (0x14000, 3), (0x17FFF, 4)] }

theorem test_witness_Addresses : [0x0000, 0x3FFF, 0x4000, 0x7FFF, 0x8000, 0xBFFF, 0xC000, 0xFFFF].map edges.memRead =
    [1, 2, 3, 4, 5, 6, 7, 8] ∧ edges.memorySelect.getLsbD 5 = false ∧ base.memorySelect.getLsbD 5 = true := by decide
theorem test_witness_AddressWrites : edges.memWrite 0x3FFF 9 = edges ∧
    ([0x4000, 0x7FFF, 0x8000, 0xBFFF, 0xC000, 0xFFFF] : List Word).map (fun a => (edges.memWrite a 9).ram) =
      [edges.ram.write 0x14000 9, edges.ram.write 0x17FFF 9, edges.ram.write 0x8000 9, edges.ram.write 0xBFFF 9,
        edges.ram.write 0x4000 9, edges.ram.write 0x7FFF 9] := by decide
theorem test_witness_ReadAfterWrite : ([0x3FFE, 0x3FFF, 0x4000, 0x7FFF, 0xBFFF, 0xFFFE, 0xFFFF] : List Word).map
      (fun a => (edges.memWrite16 a 0xAABB).memRead16 a) =
    [0x0200, 0xAA02, 0xAABB, 0xAABB, 0xAABB, 0xAABB, 0x01BB] := by decide
theorem test_witness_Refresh :
    (∃ t, exec (.incR .a) incA = .next t) ∧ incA.nextSlot = .instruction ∧ decode (incA.bytesFrom 1 incA.pc) = .ok (.incR .a, []) ∧
    incA.lookup [] = some (.incR .a) ∧ (Instr.incR .a).core ≠ .ldRA ∧ ∃ t, step incA = .next t :=
  ⟨⟨_, rfl⟩, by decide, by decide, by decide, by decide, ⟨_, rfl⟩⟩

theorem test_fetch_increments : -- R130: one row of its table each, with one further prefix
    (Instr.incR .a).wf = true ∧ (Instr.rlcXYd .iy 1).wf = true ∧ (Instr.rlcXYd .iy 1).complete = true ∧
    ([[0x3C], [0xCB, 0x07], [0xED, 0x44], [0xDD, 0x23], [0xDD, 0x3C], [0xDD, 0xED, 0x44], [0xDD, 0xFD, 0x23]] : List (List Byte)).map
      (fetchIncrements 2) = [1, 2, 2, 2, 2, 3, 3] ∧
    [2, 3].map (fun k => (fetchIncrements k [0xFD, 0xCB, 1, 6], fetchIncrements k [0xDD, 0xFD, 0xCB, 1, 6])) =
      [(2, 3), (3, 4)] := by decide

/-- A state whose next slot is an NMI entry. -/
def atNmi : State := { base with nmiPending := true }
/-- A halted state. -/
def halted : State := { base with halt := true }

theorem test_witness_Slots :
    atNmi.nextSlot = .nmi ∧ (atInt .im1).nextSlot = .int ∧ (atInt .im2).nextSlot = .int ∧ halted.nextSlot = .haltedNop ∧
    atNmi.params.contention = .none ∧ (∃ t, step atNmi = .next t) ∧ (∃ t, step (atInt .im1) = .next t) ∧
    (∃ t, step (atInt .im2) = .next t) ∧ ∃ t, step halted = .next t :=
  ⟨by decide, by decide, by decide, by decide, by decide, ⟨_, rfl⟩, ⟨_, rfl⟩, ⟨_, rfl⟩, ⟨_, rfl⟩⟩
theorem test_witness_InstructionSlots :
    incA.nextSlot = .instruction ∧ incA.lookup [] = some (.incR .a) ∧ Timed incA (.incR .a) 4 ∧ incA.slotCost = 4 ∧
    incA.params.contention = .none := ⟨by decide, by decide, .counting incOf (.reg .a) (by simp), by decide, rfl⟩
theorem test_witness_Mode0Slots :
    (atInt .im0).nextSlot = .int ∧ (atInt .im0).im = .im0 ∧ (atInt .im0).params.contention = .none ∧
    (atInt .im0).lookup [(atInt .im0).busAnswers.head?.getD (Config.freeBus (atInt .im0).busReads)] = some (.rstP 7) ∧
    Timed (atInt .im0) (.rstP 7) 11 ∧ (atInt .im0).slotCost = 13 ∧ ∃ t, step (atInt .im0) = .next t :=
  ⟨by decide, rfl, rfl, by decide, .eleven .bc .bc 7 0 .ix _ (by simp), by decide, ⟨_, rfl⟩⟩
theorem test_timed_conditions : -- R593: taken and not taken, repeating and last
    Timed (withA 0 1) (.retCc .c) 11 ∧ Timed (withA 0 1) (.jrCcE .nc 0) 7 ∧ Timed (withBC 1 base) .ldir 16 ∧
    Timed (withBC 0 base) .ldir 21 ∧ Timed (withBC 0x0100 base) .otir 16 ∧ Timed (withBC 0 base) (.djnzE 0) 13 ∧
    Timed base .cpir 16 ∧ Timed (withA 1 0) .cpdr 21 ∧ Timed base (.indexNoEffect .ix .nop) 8 :=
  ⟨.taken .c 0 0 (.retCc .c, 11) rfl (by simp), .notTaken .nc 0 0 (.jrCcE .nc 0, 7) (by simp [Cond.Holds, withA]) (by simp),
    .copyLast _ (by decide) (by simp), .copyAgain _ (by decide) (by simp), .portLast _ (by decide) (by simp),
    .loops 0 (by decide), .searchLast _ (by decide) (by simp), .searchAgain _ (by decide) (by simp),
    .prefixed .ix .nop _ 4 (.four .a .a _ (by simp)) (by simp)⟩

theorem test_witness_Budget :
    (∃ r, stepBudget incA 7 = .next r) ∧ 3 < incA.slotCost ∧ incA.slotCost ≤ 7 ∧
    ∃ u, step incA = .next u ∧ ∃ r, stepBudget u 3 = .next r :=
  ⟨⟨_, rfl⟩, by decide, by decide, _, rfl, _, rfl⟩
/-- An NMI entry whose stack lies in ROM. -/
def nmiInRom (ram rom : Memory) : State := { base with ram := ram, rom := rom, nmiPending := true, sp := 2 }

theorem push16_rom {s : State} (h : s.sp = 2) (w : Word) : s.push16 w = s.setSP 0 := by
  have hw : ∀ (s : State) (a : Word) (v : Byte), a.toNat < 0x4000 → s.memWrite a v = s := by
    intro s a v ha
    unfold State.memWrite
    rw [route_eq, if_pos ha]
  unfold State.push16
  rw [h, hw _ (2 - 1) _ (by decide), hw _ (2 - 2) _ (by decide)]
  rfl

theorem enterNmi_nmiInRom (ram rom : Memory) : (nmiInRom ram rom).enterNmi.ram = ram ∧ (nmiInRom ram rom).enterNmi.rom = rom ∧
    (nmiInRom ram rom).enterNmi.nextSlot = .instruction := by
  simp only [State.enterNmi, State.takeInterrupt]
  rw [push16_rom rfl]
  exact ⟨rfl, rfl, rfl⟩

theorem slot_nmiInRom (ram rom : Memory) :
    step (nmiInRom ram rom) = .next ((nmiInRom ram rom).enterNmi.addT (nmiInRom ram rom).slotCost) ∧
    (nmiInRom ram rom).slotCost = 11 := by
  have h : (nmiInRom ram rom).nextSlot = .nmi := rfl
  constructor
  · unfold step State.perform
    rw [h]
  · unfold State.slotCost
    rw [h]
    rfl

theorem budget_nmiInRom {ram rom : Memory}
    (h : ∀ {s : State}, s.ram = ram → s.rom = rom → s.nextSlot = .instruction → step s = .fault .unboundedPrefixRun) :
    ∃ s u, step s = .next u ∧ s.slotCost = 11 ∧ stepBudget u 9 = .fault .unboundedPrefixRun := by
  refine ⟨nmiInRom ram rom, _, (slot_nmiInRom _ _).1, (slot_nmiInRom _ _).2, ?_⟩
  obtain ⟨h1, h2, h3⟩ := enterNmi_nmiInRom ram rom
  unfold stepBudget stepWithin
  rw [h (s := (nmiInRom ram rom).enterNmi.addT _) h1 h2 h3]

theorem test_witness_BudgetFault : (∃ s : State, step s = .fault .unboundedPrefixRun) ∧
    ∃ s u, step s = .next u ∧ s.slotCost = 11 ∧ stepBudget u 9 = .fault .unboundedPrefixRun :=
  ⟨⟨_, step_allDD rfl rfl test_witness_EndlessPrefixRun.2⟩, budget_nmiInRom step_allDD⟩

theorem test_witness_LoadsByte :
    LoadsByte base (.ldRXYd .iy .h 0x80) .h (base.memRead (base.word XY.iy.name + (0x80 : Byte).signExtend 16)) ∧
    LoadsByte base (.ldPP .ix .a .xyl) .a 0 := ⟨.atXYd .iy .h 0x80, .halves .ix .a .xyl 0 rfl⟩
theorem test_witness_StoresByte : StoresByte base (.ldNNA 0xFFFF) 0xFFFF 0 ∧ StoresByte base (.ldNNA 0) 0 0 :=
  ⟨.direct 0xFFFF, .direct 0⟩
theorem test_witness_LoadsWord : LoadsWord base (.ldDDNN .sp 0x1234) .sp 0x1234 ∧ LoadsWord base (.ldSPXY .iy) .sp 0 :=
  ⟨.imm .sp 0x1234, .spXY .iy⟩
theorem test_witness_StoresWord : StoresWord base (.ldNNHL 0x3FFF) 0x3FFF 0 ∧ StoresWord base (.ldNNDD 0xFFFF .sp) 0xFFFF 0xFFFF :=
  ⟨.hl 0x3FFF, .pair 0xFFFF .sp⟩
theorem test_witness_Pushes : Pushes (.pushQQ .af) .a .f ∧ (withA 0x12 0x34).register .a = (0x12 : Byte).toNat ∧
    (withA 0x12 0x34).register .f = (0x34 : Byte).toNat ∧ Pushes (.pushXY .iy) .iyh .iyl := ⟨.pair .af, rfl, rfl, .index .iy⟩
theorem test_witness_Pops : Pops (.popQQ .af) .a .f ∧ Pops (.popXY .ix) .ixh .ixl := ⟨.pair .af, .index .ix⟩
theorem test_witness_ExchangesTop : ExchangesTop .exSPHL .h .l ∧ (withHL 0x1234 base).register .h = (0x12 : Byte).toNat ∧
    (withHL 0x1234 base).register .l = (0x34 : Byte).toNat ∧ ExchangesTop (.exSPXY .iy) .iyh .iyl :=
  ⟨.hl, rfl, rfl, .index .iy⟩
theorem test_witness_Jumps : Jumps (withA 0 0x40) (.jpCcNN .z 0x9000) 0x9000 ∧ Jumps (withA 0 0x40) (.jpCcNN .nz 0x9000) 0x8000 ∧
    Jumps (withA 0 1) (.jrCcE .c 0x80) 0x7F80 ∧ Jumps (withA 0 1) (.jrCcE .nc 0x80) 0x8000 :=
  ⟨.taken .z 0x9000 rfl, .notTaken .nz 0x9000 (by simp [Cond.Holds, withA]), .relativeTaken .c 0x80 rfl,
    .relativeNotTaken .nc 0x80 (by simp [Cond.Holds, withA])⟩
theorem test_witness_Calls : Calls (withA 0 0x80) (.callCcNN .m 0x9000) 0x9000 ∧ Calls base (.rstP 7) 0x0038 ∧
    ¬Cond.p.Holds (withA 0 0x80).main.f := ⟨.taken .m 0x9000 rfl, .restart 7, by simp [Cond.Holds, withA]⟩
theorem test_witness_Returns : Returns (withA 0 4) (.retCc .pe) false ∧ Returns base (.retnCopies 7) false ∧
    ¬Cond.po.Holds (withA 0 4).main.f := ⟨.taken .pe rfl, .fromNmiCopy 7, by simp [Cond.Holds, withA]⟩
theorem test_witness_ReadsPort : ReadsPort base (.inAN 0xFE) 0xFE 0 ∧ ReadsPort base (.inRC .h) 0 0 ∧ ReadsPort base .inFC 0 0 :=
  ⟨.inA 0xFE, .inR .h, .inF⟩
theorem test_witness_WritesPort : WritesPort (withBC 0x7FFD (withA 0x17 0)) (.outCR .a) 0xFD 0x7F 0x17 ∧ WritesPort base .outC0 0 0 0 ∧
    base.params = Config.Params.default ∧ base.isPagingPort 0xFD 0x7F = true ∧ base.isPagingPort 0xFD 0xFF = false :=
  ⟨.outR .a, .out0, rfl, by decide, by decide⟩
theorem test_witness_Nmi : atNmi.nmiPending = true := rfl
theorem test_witness_Int : (atInt .im1).nmiPending = false ∧ (atInt .im1).intPending = true ∧ (atInt .im1).iff1 = true ∧
    (atInt .im1).eiDelay = false ∧ (atInt .im1).im ≠ .im0 ∧ (atInt .im2).im = .im2 := by decide
theorem test_witness_Int0 : (atInt .im0).nmiPending = false ∧ (atInt .im0).intPending = true ∧ (atInt .im0).iff1 = true ∧
    (atInt .im0).eiDelay = false ∧ (atInt .im0).im = .im0 ∧
    decode ((atInt .im0).busAnswers.head?.getD (Config.freeBus (atInt .im0).busReads) :: (atInt .im0).bytesFrom 0 (atInt .im0).pc) =
      .ok (.rstP 7, []) ∧ (Instr.rstP 7).complete = true := by decide
theorem test_witness_Halted : halted.nmiPending = false ∧ (halted.intPending = true → halted.iff1 = false ∨ halted.eiDelay = true) ∧
    halted.halt = true := by decide
theorem test_witness_EiDeferral : (State.code base [0xFB]).nextSlot = .instruction ∧
    (State.code base [0xFB]).lookup [] = some .ei ∧ ∃ t, step (State.code base [0xFB]) = .next t :=
  ⟨by decide, by decide, ⟨_, rfl⟩⟩
theorem test_witness_Attributes : 0x1800 ≤ (0x1800 : BitVec 14).toNat ∧ (0x1800 : BitVec 14).toNat < 0x1B00 ∧
    0x1800 ≤ (0x1AFF : BitVec 14).toNat ∧ (0x1AFF : BitVec 14).toNat < 0x1B00 ∧ base.memorySelect.getLsbD 3 = false := by decide
theorem test_witness_Page7 : { base128 with memorySelect := 0x0F }.memorySelect.getLsbD 3 = true ∧
    { base128 with memorySelect := 0x0F }.memorySelect.toNat % 8 = 7 := by decide

/-- A file of version 2 or 3 with `Flags1` = 255, in 48K mode, PC 0x1234, and these blocks. -/
def snapFile (addlen : Byte) (blocks : List FileBlock) : ExtendedFile where
  header := List.replicate 12 0 ++ [0xFF] ++ List.replicate 17 0
  addlen := addlen
  ext := [0x34, 0x12, 0, 7] ++ List.replicate (addlen.toNat - 4) 0
  blocks := blocks

/-- Page 5 of bytes 0x41, stored whole, and page 5 again, compressed: 64 runs of 255 bytes and one of 64. -/
def rawPage : FileBlock := ⟨8, true, List.replicate 16384 0x41⟩
def packedPage : FileBlock := ⟨8, false, (List.replicate 64 [0xED, 0xED, 0xFF, 0x42]).flatten ++ [0xED, 0xED, 0x40, 0x42]⟩

theorem decompress_runs (v : Byte) (tail : List Byte) (n max : Nat) (h : n * 255 ≤ max) :
    (decompress ((List.replicate n [0xED, 0xED, 0xFF, v]).flatten ++ tail) max).length =
      n * 255 + (decompress tail (max - n * 255)).length := by
  induction n generalizing max with
  | zero => simp
  | succ n ih =>
    have e : (List.replicate (n + 1) [0xED, 0xED, 0xFF, v]).flatten ++ tail =
        0xED :: 0xED :: 0xFF :: v :: ((List.replicate n [0xED, 0xED, 0xFF, v]).flatten ++ tail) := by
      simp [List.replicate_succ]
    have h255 : min (0xFF : Byte).toNat max = 255 := by
      show min 255 max = 255
      omega
    rw [e, decompress]
    rw [if_neg (by omega), if_neg (by simp), if_pos (by simp)]
    simp only [h255, List.length_append, List.length_replicate]
    have hs : (n + 1) * 255 = n * 255 + 255 := Nat.succ_mul n 255
    rw [hs] at h ⊢
    rw [ih (max - 255) (Nat.le_sub_of_add_le h), Nat.sub_sub, Nat.add_comm 255 (n * 255)]
    generalize n * 255 = k
    omega

theorem loads_of_raw {b : FileBlock} (h : b.raw = true) (hl : b.data.length = 16384) (is128 : Bool) : b.Loads is128 := by
  refine ⟨by rw [FileBlock.Sized, if_pos h]; exact hl, fun _ _ _ => ?_⟩
  rw [FileBlock.page, if_pos h, List.length_take, hl, Nat.min_self]

theorem rawPage_loads : rawPage.Loads false := loads_of_raw rfl List.length_replicate false

theorem packedPage_sized : packedPage.Sized := by
  have h : packedPage.data.length = 64 * 4 + 4 := by
    rw [packedPage, List.length_append, List.length_flatten, List.map_replicate, List.sum_replicate]
    rfl
  rw [FileBlock.Sized, show packedPage.raw = false from rfl, if_neg Bool.false_ne_true, h]
  decide

theorem packedPage_loads : packedPage.Loads false := by
  refine ⟨packedPage_sized, fun _ _ _ => ?_⟩
  rw [FileBlock.page, show packedPage.raw = false from rfl, if_neg Bool.false_ne_true]
  refine (decompress_runs 0x42 [0xED, 0xED, 0x40, 0x42] 64 16384 (by decide)).trans ?_
  have h : decompress [0xED, 0xED, 0x40, 0x42] 64 = List.replicate 64 0x42 := by rfl
  rw [h, List.length_replicate]

theorem snapFile_wellHeaded {addlen : Byte} (h : addlen = 23 ∨ addlen = 54 ∨ addlen = 55) (blocks : List FileBlock) :
    (snapFile addlen blocks).WellHeaded := by
  rcases h with rfl | rfl | rfl <;> exact ⟨rfl, ⟨rfl, rfl⟩, by show (0 : Nat) ≠ 3; decide, by simp [snapFile], rfl⟩

theorem test_witness_Load : (snapFile 55 [rawPage, packedPage]).WellHeaded ∧
    (∀ b ∈ (snapFile 55 [rawPage, packedPage]).blocks, b.Loads (snapFile 55 [rawPage, packedPage]).is128) ∧ FileEnd [] ∧
    FileEnd [0, 0, 9, 1] ∧ (5 : Bits3).toNat ∈ ramPages (snapFile 55 [rawPage, packedPage]).is128 := by
  refine ⟨snapFile_wellHeaded (by simp) _, fun b hb => ?_, .eof, .terminator 9 [1], by decide⟩
  simp only [snapFile, List.mem_cons, List.not_mem_nil, or_false] at hb
  rcases hb with rfl | rfl
  · exact rawPage_loads
  · exact packedPage_loads

/-- A version 1 header with PC 0x0100, its body not compressed. -/
def v1Header : List Byte := [0, 0, 0, 0, 0, 0, 0, 1] ++ List.replicate 22 0

theorem test_witness_LoadVersion1 : Version1Header v1Header ∧
    (bodyOf base.params v1Header (List.replicate 49153 0x43) 49152).length = 49152 ∧
    (bodyOf base.params v1Header [0x43] 49152).length ≠ 49152 :=
  ⟨⟨by decide, by decide, by decide⟩,
    List.length_take.trans (by rw [List.length_replicate]; rfl), by decide⟩
theorem test_witness_LoadFails :
    BadHeader [1] ∧ BadHeader (List.replicate 29 0 ++ [3]) ∧ BadHeader (List.replicate 31 0) ∧
    BadHeader (List.replicate 30 0 ++ [24, 0]) ∧ BadHeader (List.replicate 30 0 ++ [23, 0]) ∧
    CutOff [1] ∧ CutOff [1, 0] ∧ CutOff [2, 0, 99, 7] ∧ CutOff [0xFF, 0xFF, 8] ∧
    (⟨8, false, [1]⟩ : FileBlock).Sized ∧ ¬(⟨8, false, [1]⟩ : FileBlock).Loads false ∧ base.load [1] [] = none :=
  ⟨.short (by decide), .mode (by decide), .noLength (by decide) (by decide), .addlen (by decide) (by decide),
    .extShort (by decide) (by decide), .one 1, .two 1 0, .data 2 0 99 [7] (by decide) (by decide),
    .data 0xFF 0xFF 8 [] (by decide) (by decide), by simp [FileBlock.Sized],
    fun h => absurd (h.2 5 (by decide) (by decide)) (by decide), by decide⟩
theorem test_witness_Screenshot : (snapFile 23 [⟨99, false, [1, 2]⟩]).WellHeaded ∧
    (∀ b ∈ (snapFile 23 [⟨99, false, [1, 2]⟩]).blocks, b.Sized ∧ b.id ≠ 8) ∧ packedPage.Sized ∧ packedPage.id = 8 :=
  ⟨snapFile_wellHeaded (by simp) _, by simp [snapFile, FileBlock.Sized], packedPage_sized, rfl⟩
theorem test_load_flags1 : -- R462: Flags1 = 255 is read as 1, so R bit 7 is set and the border is 0
    ((base.load (snapFile 54 []).bytes []).map fun t => (t.r, t.border, t.pc, t.memorySelect, t.ram)) =
      some (0x80, (0 : BitVec 3), 0x1234, 0x30, ([] : Memory)) := by rfl

end Sys2Proof.Tests
end

section
/-! PROOFS. The invariant: reset meets it, and every store, paging byte and slot keeps it (rules R6, R45, R48, R73, R80). -/

namespace Sys2Proof.Machine

/-! ## What 48K mode does not have -/

theorem absentEmpty_iff {m : Memory} : absentEmpty m = true ↔ ∀ c ∈ m, c.1 / pageSize ∉ absentPages := by
  simp [absentEmpty]

/-- A cell of an inserted-into memory is the new one or an old one. -/
theorem Memory.mem_insert {m : Memory} {a : Nat} {v : Byte} {c : Host.Cell} (h : c ∈ m.insert a v) :
    c = (a, v) ∨ c ∈ m := by
  induction m with
  | nil => simpa [insert] using h
  | cons d m ih =>
    obtain ⟨k, w⟩ := d
    simp only [insert] at h
    split at h
    · exact List.mem_cons.1 h
    · split at h
      · exact (List.mem_cons.1 h).imp_right (List.mem_cons_of_mem _)
      · rcases List.mem_cons.1 h with rfl | h
        · exact .inr List.mem_cons_self
        · exact (ih h).imp_right (List.mem_cons_of_mem _)

/-- A cell of a written memory has the written key or is an old one. -/
theorem Memory.mem_write {m : Memory} {a : Nat} {v : Byte} {c : Host.Cell} (h : c ∈ m.write a v) : c.1 = a ∨ c ∈ m := by
  unfold write at h
  split at h
  · exact .inr (List.mem_filter.1 h).1
  · exact (mem_insert h).imp_left (congrArg Prod.fst)

theorem absentEmpty_write {m : Memory} {a : Nat} (h : absentEmpty m = true) (ha : a / pageSize ∉ absentPages) (v : Byte) :
    absentEmpty (m.write a v) = true :=
  absentEmpty_iff.2 fun c hc => (Memory.mem_write hc).elim (fun e => e ▸ ha) (absentEmpty_iff.1 h c)

theorem pageKey_div (p : Nat) (o : BitVec 14) : pageKey p o.toNat / pageSize = p := by
  have := o.isLt
  simp only [pageKey, pageSize]; omega

/-- MemorySelect 0x30 routes no address to a page that 48K mode does not have (rule R73). -/
theorem not_mem_absentPages_of_route {a : Word} {p : Bits3} {o : BitVec 14} (h : route 0x30 a = .ram p o) :
    p.toNat ∉ absentPages := by
  rw [route_eq] at h
  split_ifs at h <;> obtain ⟨rfl, -⟩ := Place.ram.inj h <;> decide

/-! ## The invariant -/

namespace State

theorem Inv.of_sameMachine {s t : State} (h : s.Inv) (e : SameMachine s t) : t.Inv where
  ram_wf := e.ram ▸ h.ram_wf
  rom_wf := e.rom ▸ h.rom_wf
  paging_48 h48 := e.paging.trans (h.paging_48 (e.is128.symm.trans h48))
  pages_48 h48 := e.ram ▸ h.pages_48 (e.is128.symm.trans h48)

/-- A store lands in a page there is, or in a ROM page, which drops it (rules R72, R77). -/
theorem Inv.memWrite {s : State} (h : s.Inv) (a : Word) (v : Byte) : (s.memWrite a v).Inv := by
  unfold State.memWrite
  split
  · exact h
  · next p o e =>
    refine ⟨Memory.wf_write h.ram_wf (pageKey_lt_ramSize p o) v, h.rom_wf, h.paging_48, fun h48 => ?_⟩
    rw [h.paging_48 h48] at e
    exact absentEmpty_write (h.pages_48 h48) (by rw [pageKey_div]; exact not_mem_absentPages_of_route e) v

/-- A paging byte changes MemorySelect in 128K mode only: 0x30 has PagingLock set (rules R73, R80). -/
theorem Inv.setPaging {s : State} (h : s.Inv) (b : Byte) : (s.setPaging b).Inv where
  ram_wf := by rw [setPaging_ram]; exact h.ram_wf
  rom_wf := by rw [setPaging_rom]; exact h.rom_wf
  paging_48 h48 := by
    have h30 := h.paging_48 (by rwa [setPaging_is128] at h48)
    rw [setPaging_memorySelect, h30]; rfl
  pages_48 h48 := by
    rw [setPaging_ram]; exact h.pages_48 (by rwa [setPaging_is128] at h48)

theorem Inv.of_reaches {s t : State} (h : s.Inv) (r : Reaches s t) : t.Inv := by
  induction r with
  | refl => exact h
  | cpu _ e ih => exact ih.of_sameMachine e
  | store _ a v ih => exact ih.memWrite a v
  | page _ b ih => exact ih.setPaging b

end State

/-- Settles O11: a slot is register updates, stores and paging bytes, each of which keeps the invariant. -/
theorem everyStepKeepsTheInvariant : Obligations.EveryStepKeepsTheInvariant :=
  fun _ _ h e => h.of_reaches (step_reaches e)

/-- Settles O10: both memories list nothing, and MemorySelect is 0x30. -/
theorem resetMeetsTheInvariant : Obligations.ResetMeetsTheInvariant where
  ram_wf := Memory.wfFrom_nil ramSize 0
  rom_wf := Memory.wfFrom_nil romSize 0
  paging_48 _ := rfl
  pages_48 _ := absentEmpty_iff.2 fun _ hc => absurd hc List.not_mem_nil

end Sys2Proof.Machine
end

section
/-! PROOFS. `PUSH` and `POP` (rules R14, R210 to R213). -/

namespace Sys2Proof.Machine

/-! ## The pairs of column qq -/

theorem frame_setQQ (s : State) (qq : PairQQ) (w : Word) : Frame s (s.setQQ qq w) [qq.high, qq.low] [] := by
  cases qq
  case bc => exact frame_setBC s w
  case de => exact frame_setDE s w
  case hl => exact frame_setHL s w
  case af => exact (frame_setA s (hi8 w)).trans (frame_setF _ (lo8 w))

theorem setQQ_register_high (s : State) (qq : PairQQ) (w : Word) : (s.setQQ qq w).register qq.high = (hi8 w).toNat := by
  cases qq <;> rfl

theorem setQQ_register_low (s : State) (qq : PairQQ) (w : Word) : (s.setQQ qq w).register qq.low = (lo8 w).toNat := by
  cases qq <;> rfl

theorem register_high_eq (s : State) (qq : PairQQ) : s.register qq.high = (hi8 (s.pairQQ qq)).toNat := by
  cases qq <;> exact congrArg BitVec.toNat (hi8_joinBytes _ _).symm

theorem register_low_eq (s : State) (qq : PairQQ) : s.register qq.low = (lo8 (s.pairQQ qq)).toNat := by
  cases qq <;> exact congrArg BitVec.toNat (lo8_joinBytes _ _).symm

/-! ## The halves of an index register -/

theorem names_index (xy : XY) : xy.name.names = [Half.name xy .high, Half.name xy .low] := by cases xy <;> rfl

theorem register_half (s : State) (xy : XY) (p : Half) : s.register (Half.name xy p) = (s.half xy p).toNat := by
  cases xy <;> cases p <;> rfl

/-! ## The two instructions -/

/-- `PUSH` pushes the word its two registers make. -/
theorem exec_of_pushes {i : Instr} {hi lo : Register} (h : Pushes i hi lo) (s : State) :
    ∃ w, exec i s = .next (s.push16 w) ∧ s.register hi = (hi8 w).toNat ∧ s.register lo = (lo8 w).toNat := by
  cases h with
  | pair qq => exact ⟨s.pairQQ qq, rfl, register_high_eq s qq, register_low_eq s qq⟩
  | index xy => exact ⟨s.indexReg xy, rfl, register_half s xy .high, register_half s xy .low⟩

/-- `POP` takes the top off the stack and puts it in its two registers. -/
theorem exec_of_pops {i : Instr} {hi lo : Register} (h : Pops i hi lo) (s : State) :
    ∃ t, exec i s = .next t ∧ t.sp = s.sp + 2 ∧ t.register hi = (hi8 s.popped).toNat ∧
      t.register lo = (lo8 s.popped).toNat ∧ Frame s.dropTop t [hi, lo] [] := by
  cases h with
  | pair qq =>
    exact ⟨s.dropTop.setQQ qq s.popped, rfl, by simp, setQQ_register_high _ qq _, setQQ_register_low _ qq _,
      frame_setQQ _ qq _⟩
  | index xy =>
    refine ⟨s.dropTop.setIndex xy s.popped, rfl, by simp, ?_, ?_, ?_⟩
    · rw [register_half, State.half, State.setIndex_indexReg]
    · rw [register_half, State.half, State.setIndex_indexReg]
    · rw [← names_index]; exact frame_setIndex _ xy _

/-- Settles O23: `PUSH` is `push16` of its pair, and `POP` fills its pair from the word at SP. -/
theorem pushAndPopMoveTheirPair : Obligations.PushAndPopMoveTheirPair := by
  constructor
  · intro s i hi lo vh vl hp hh hl
    obtain ⟨w, he, wh, wl⟩ := exec_of_pushes hp s
    obtain rfl : hi8 w = vh := BitVec.eq_of_toNat_eq (wh.symm.trans hh)
    obtain rfl : lo8 w = vl := BitVec.eq_of_toNat_eq (wl.symm.trans hl)
    obtain ⟨high, low⟩ := stored_push16 s w
    exact ⟨s.push16 w, he, State.push16_sp s w, high, low, frame_push16 s w⟩
  · intro s i hi lo hp
    obtain ⟨t, he, sp, high, low, frame⟩ := exec_of_pops hp s
    refine ⟨t, he, sp, low.trans ?_, high.trans ?_, (frame_dropTop s).trans_of frame (by simp) (by simp)⟩
    · rw [State.popped, State.memRead16, lo8_joinBytes]
    · rw [State.popped, State.memRead16, hi8_joinBytes]

end Sys2Proof.Machine
end

section
/-! PROOFS. Exchanges (rules R230 to R234). -/

namespace Sys2Proof.Machine

/-! ## Exchanges of registers -/

theorem frame_exchangeAF (s : State) : Frame s s.exchangeAF [.a, .f, .a', .f'] [] :=
  frame_of_registers (fun q hq => by cases q <;> first | rfl | simp at hq) rfl

theorem frame_exchangeBanks (s : State) :
    Frame s s.exchangeBanks [.b, .c, .d, .e, .h, .l, .b', .c', .d', .e', .h', .l'] [] :=
  frame_of_registers (fun q hq => by cases q <;> first | rfl | simp at hq) rfl

/-! ## The exchange with the stack top -/

theorem frame_exchangeTop (s : State) (w : Word) : Frame s (s.exchangeTop w) [] [s.sp, s.sp + 1] :=
  (frame_memWrite s (s.sp + 1) (hi8 w)).trans_of (frame_memWrite _ s.sp (lo8 w)) (by simp) (by simp)

theorem stored_exchangeTop (s : State) (w : Word) :
    Stored s (s.exchangeTop w) s.sp (lo8 w) ∧ Stored s (s.exchangeTop w) (s.sp + 1) (hi8 w) := by
  have h := route_succ_ne s.memorySelect s.sp
  constructor
  · have e := stored_memWrite (s.memWrite (s.sp + 1) (hi8 w)) s.sp (lo8 w)
    rwa [Stored, State.memWrite_memorySelect, State.memRead_memWrite_ne h.symm] at e
  · rw [Stored, State.exchangeTop, State.memRead_memWrite_ne (by simpa using h)]
    exact stored_memWrite s (s.sp + 1) (hi8 w)

/-- A store outlives register updates. -/
theorem Stored.of_frame {s t u : State} {a : Word} {v : Byte} {regs : List Register} (h : Stored s t a v)
    (f : Frame t u regs []) : Stored s u a v :=
  (f.reads a (by simp)).trans h

/-- `EX (SP),HL` and `EX (SP),XY` store the word their two registers make and take the word at the top. -/
theorem exec_of_exchangesTop {i : Instr} {hi lo : Register} (h : ExchangesTop i hi lo) (s : State) :
    ∃ w t, exec i s = .next t ∧ s.register hi = (hi8 w).toNat ∧ s.register lo = (lo8 w).toNat ∧
      t.register hi = (hi8 s.popped).toNat ∧ t.register lo = (lo8 s.popped).toNat ∧
      Frame (s.exchangeTop w) t [hi, lo] [] := by
  cases h with
  | hl => exact ⟨s.hl, _, rfl, register_high_eq s .hl, register_low_eq s .hl, setQQ_register_high _ .hl _,
      setQQ_register_low _ .hl _, frame_setHL _ s.popped⟩
  | index xy =>
    refine ⟨s.indexReg xy, _, rfl, register_half s xy .high, register_half s xy .low, ?_, ?_, ?_⟩
    · rw [register_half, State.half, State.setIndex_indexReg]
    · rw [register_half, State.half, State.setIndex_indexReg]
    · rw [← names_index]; exact frame_setIndex _ xy s.popped

/-- Settles O24: `EX DE,HL`, `EX AF,AF'` and `EXX` are register updates; the exchange with the stack top is two stores and
the update of one pair. -/
theorem exchangesSwapTheirOperands : Obligations.ExchangesSwapTheirOperands := by
  constructor
  · intro s
    refine ⟨⟨_, rfl, joinBytes_hi8_lo8 s.hl, joinBytes_hi8_lo8 s.de, ?_⟩,
      ⟨_, rfl, rfl, rfl, rfl, rfl, frame_exchangeAF s⟩, ⟨_, rfl, ?_, frame_exchangeBanks s⟩⟩
    · exact (frame_setDE s s.hl).trans (frame_setHL _ s.de)
    · simp [State.exchangeBanks, State.register]
  · intro s i hi lo vh vl hx hh hl
    obtain ⟨w, t, he, wh, wl, th, tl, frame⟩ := exec_of_exchangesTop hx s
    obtain rfl : hi8 w = vh := BitVec.eq_of_toNat_eq (wh.symm.trans hh)
    obtain rfl : lo8 w = vl := BitVec.eq_of_toNat_eq (wl.symm.trans hl)
    obtain ⟨low, high⟩ := stored_exchangeTop s w
    refine ⟨t, he, tl.trans ?_, th.trans ?_, low.of_frame frame, high.of_frame frame,
      (frame_exchangeTop s w).trans_of frame (by simp) (by simp)⟩
    · rw [State.popped, State.memRead16, lo8_joinBytes]
    · rw [State.popped, State.memRead16, hi8_joinBytes]

end Sys2Proof.Machine
end

section
/-! PROOFS. Jumps (rules R390 to R397). -/

namespace Sys2Proof.Machine

/-- The model's condition test is that of rule R32. -/
theorem cond_iff {s : State} {cc : Cond} : s.cond cc = true ↔ cc.Holds s.main.f := by
  cases cc <;> simp [State.cond, Cond.Holds, flagZ, flagC, flagPV, flagS]

/-- A relative jump, in integers (rule R390). -/
theorem add_sext8 (pc : Word) (e : Byte) : pc + sext8 e = BitVec.ofInt 16 (pc.toNat + e.toInt) := by
  rw [BitVec.ofInt_add, BitVec.ofInt_natCast, BitVec.ofNat_toNat, BitVec.setWidth_eq]
  rfl

/-- A jump is `setPC`; one not taken sets PC to what it is. -/
theorem exec_of_jumps {s : State} {i : Instr} {target : Word} (h : Jumps s i target) :
    exec i s = .next (s.setPC target) := by
  cases h with
  | absolute nn => rfl
  | taken cc nn h => exact congrArg _ (if_pos (cond_iff.2 h))
  | notTaken cc nn h => exact congrArg _ (if_neg (mt cond_iff.1 h))
  | relative e => rw [← add_sext8]; rfl
  | relativeTaken cc e h =>
    rw [← add_sext8]; exact congrArg _ (if_pos (cond_iff.2 h))
  | relativeNotTaken cc e h => exact congrArg _ (if_neg (mt cond_iff.1 h))
  | toHL => rfl
  | toXY xy => cases xy <;> rfl

/-- `DJNZ`: B, then PC (rule R397). -/
theorem exec_djnzE (s : State) (e : Byte) :
    exec (.djnzE e) s = .next ((s.setB (s.main.b - 1)).setPC
      (if s.main.b = 1 then s.pc else BitVec.ofInt 16 (s.pc.toNat + e.toInt))) := by
  have hb : s.main.b - 1 ≠ 0 ↔ s.main.b ≠ 1 := by bv_omega
  by_cases h : s.main.b = 1
  · rw [if_pos h]
    exact congrArg _ (if_neg (mt hb.1 (not_not.2 h)))
  · rw [if_neg h, ← add_sext8]
    exact congrArg _ (if_pos (hb.2 h))

/-- Settles O43: every jump is `setPC`, and `DJNZ` is `setB` besides. -/
theorem jumpsSetPC : Obligations.JumpsSetPC := fun s =>
  ⟨fun _ target h => ⟨_, exec_of_jumps h, rfl, frame_setPC s target⟩,
    fun e => ⟨_, exec_djnzE s e, rfl, rfl, (frame_setB s (s.main.b - 1)).trans (frame_setPC _ _)⟩⟩

end Sys2Proof.Machine
end

section
/-! PROOFS. What no slot changes (rules R45, R75, R80), and what reset sets (rule R50). -/

namespace Sys2Proof.Machine

/-- What register updates, stores and paging bytes keep (rules R45, R75, R80). -/
theorem Reaches.keeps_rom_mode_lock {s t : State} (h : Reaches s t) :
    t.rom = s.rom ∧ t.is128 = s.is128 ∧ t.params = s.params ∧
      (pagingLock s.memorySelect = true → t.memorySelect = s.memorySelect) := by
  induction h with
  | refl => exact ⟨rfl, rfl, rfl, fun _ => rfl⟩
  | cpu _ e ih =>
    obtain ⟨rom, mode, params, paging⟩ := ih
    exact ⟨e.rom.trans rom, e.is128.trans mode, e.params.trans params, fun l => e.paging.trans (paging l)⟩
  | store _ a v ih => simpa using ih
  | page _ b ih =>
    obtain ⟨rom, mode, params, paging⟩ := ih
    refine ⟨by simpa using rom, by simpa using mode, by simpa using params, fun l => ?_⟩
    rw [State.setPaging_memorySelect, paging l, if_pos l]

/-- Settles O13: a slot is register updates, stores and paging bytes, and a locked MemorySelect takes no paging byte. -/
theorem stepKeepsRomModeAndLockedPaging : Obligations.StepKeepsRomModeAndLockedPaging :=
  fun _ _ h => (step_reaches h).keeps_rom_mode_lock

/-- Settles O54: `resetWith` writes the fields rule R50 lists; a pair is the word its halves make. -/
theorem resetSetsTheDocumentedState : Obligations.ResetSetsTheDocumentedState := by
  intro s g t
  have pairs : t.word .bc = g.bc ∧ t.word .de = g.de ∧ t.word .hl = g.hl :=
    ⟨joinBytes_hi8_lo8 g.bc, joinBytes_hi8_lo8 g.de, joinBytes_hi8_lo8 g.hl⟩
  obtain ⟨bc, de, hl⟩ := pairs
  exact ⟨rfl, rfl, rfl, rfl, rfl, rfl, rfl, rfl, rfl, rfl, rfl, rfl, rfl, rfl, rfl, rfl, rfl, rfl, rfl, bc, de, hl, rfl, rfl,
    rfl⟩

end Sys2Proof.Machine
end

section
/-! PROOFS. The host's calls keep the invariant (rules R6, R50, R75, R78, R500, R503). -/

namespace Sys2Proof.Machine

/-! ## RAM of a machine: canonical, and nothing in the pages 48K mode does not have -/

/-- What the invariant asks of RAM in a mode. -/
structure RamOk (is128 : Bool) (ram : Memory) : Prop where
  wf : ram.wf ramSize = true
  absent : is128 = false → absentEmpty ram = true

theorem State.Inv.ramOk {s : State} (h : s.Inv) : RamOk s.is128 s.ram := ⟨h.ram_wf, h.pages_48⟩

/-- The cells of a replaced page are the page's own or old ones of other pages. -/
theorem Memory.mem_setPage {m : Memory} {page : Nat} {bytes : List Byte} {c : Host.Cell}
    (h : c ∈ m.setPage page bytes) (hb : bytes.length = pageSize) :
    (c.1 / pageSize = page ∧ c ∈ Memory.cells (pageKey page 0) bytes) ∨ (c.1 / pageSize ≠ page ∧ c ∈ m) := by
  simp only [setPage, List.mem_append, List.mem_filter, decide_eq_true_eq] at h
  rcases h with (⟨hm, below⟩ | hc) | ⟨hm, above⟩
  · refine .inr ⟨?_, hm⟩
    simp only [pageKey, pageSize] at below ⊢; omega
  · refine .inl ⟨?_, hc⟩
    have key := cells_key c hc
    simp only [pageKey, pageSize] at key hb ⊢; omega
  · refine .inr ⟨?_, hm⟩
    simp only [pageKey, pageSize] at above ⊢; omega

/-- A blank page lists nothing. -/
theorem Memory.cells_blank (k n : Nat) : Memory.cells k (List.replicate n Memory.blank) = [] := by
  induction n generalizing k with
  | zero => rfl
  | succ n ih => rw [List.replicate_succ, cells, if_pos rfl, ih]

theorem mem_ramPages {page : Nat} {is128 : Bool} (h : page ∈ ramPages is128) :
    page < 8 ∧ (is128 = false → page ∉ absentPages) := by
  have all : ∀ is128 : Bool, ∀ p ∈ ramPages is128, p < 8 ∧ (is128 = false → p ∉ absentPages) := by decide
  exact all is128 page h

theorem lt_of_mem_absentPages {page : Nat} (h : page ∈ absentPages) : page < 8 := by
  have all : ∀ p ∈ absentPages, p < 8 := by decide
  exact all page h

/-- A page of RAM put in keeps the canonical form. -/
theorem Memory.wf_setPage_ram {m : Memory} {page : Nat} {bytes : List Byte} (h : m.wf ramSize = true) (hp : page < 8)
    (hb : bytes.length = pageSize) : (m.setPage page bytes).wf ramSize = true :=
  wf_setPage h hb (by simp only [pageKey, ramSize, pageSize]; omega)

/-- A page that exists can be replaced. -/
theorem RamOk.setPage {is128 : Bool} {ram : Memory} (h : RamOk is128 ram) {page : Nat} (hp : page ∈ ramPages is128)
    {bytes : List Byte} (hb : bytes.length = pageSize) : RamOk is128 (ram.setPage page bytes) := by
  obtain ⟨lt, present⟩ := mem_ramPages hp
  refine ⟨Memory.wf_setPage_ram h.wf lt hb, fun h48 => absentEmpty_iff.2 fun c hc => ?_⟩
  obtain ⟨e, -⟩ | ⟨-, old⟩ := Memory.mem_setPage hc hb
  · exact e ▸ present h48
  · exact absentEmpty_iff.1 (h.absent h48) c old

/-- Pages of RAM put in one after the other keep the canonical form. -/
theorem Memory.wf_foldl_setPage {pages : List Nat} {content : Nat → List Byte} {m : Memory} (h : m.wf ramSize = true)
    (hp : ∀ p ∈ pages, p < 8) (hc : ∀ p, (content p).length = pageSize) :
    (pages.foldl (fun m p => m.setPage p (content p)) m).wf ramSize = true := by
  induction pages generalizing m with
  | nil => exact h
  | cons p ps ih =>
    exact ih (wf_setPage_ram h (hp p List.mem_cons_self) (hc p)) fun q hq => hp q (List.mem_cons_of_mem p hq)

/-- Blanked pages list nothing, and no cell is new. -/
theorem Memory.mem_foldl_blank {pages : List Nat} {m : Memory} {c : Host.Cell}
    (h : c ∈ pages.foldl (fun m p => m.setPage p blankPage) m) : c.1 / pageSize ∉ pages ∧ c ∈ m := by
  induction pages generalizing m with
  | nil => exact ⟨List.not_mem_nil, h⟩
  | cons p ps ih =>
    obtain ⟨rest, hm⟩ := ih h
    obtain ⟨-, hc⟩ | ⟨ne, old⟩ := mem_setPage hm length_blankPage
    · exact absurd hc (by rw [blankPage, cells_blank]; exact List.not_mem_nil)
    · exact ⟨List.not_mem_cons_of_ne_of_not_mem ne rest, old⟩

/-- The pages of another mode dropped (rule R503). -/
theorem ramOk_dropAbsent {ram : Memory} (h : ram.wf ramSize = true) (is128 : Bool) : RamOk is128 ram.dropAbsent where
  wf := Memory.wf_foldl_setPage h (fun _ => lt_of_mem_absentPages) fun _ => Memory.length_blankPage
  absent _ := absentEmpty_iff.2 fun _ hc => (Memory.mem_foldl_blank hc).1

/-! ## What a snapshot load makes of RAM -/

theorem ramOk_ramForLoad {s : State} (h : s.Inv) (is128 : Bool) (fresh : Memory) :
    RamOk is128 (ramForLoad s is128 fresh) := by
  have kept : s.is128 = is128 → RamOk is128 s.ram := fun e => e ▸ h.ramOk
  unfold ramForLoad
  cases is128 with
  | false =>
    cases mode : s.is128 with
    | false => exact kept mode
    | true => exact ramOk_dropAbsent h.ram_wf false
  | true =>
    cases mode : s.is128 with
    | false =>
      exact ⟨Memory.wf_foldl_setPage h.ram_wf (fun _ => lt_of_mem_absentPages) fun _ => Memory.length_page fresh _, nofun⟩
    | true => exact kept mode

theorem ramOk_readBlocks {is128 : Bool} {n : Nat} {bytes : List Byte} {ram ram' : Memory} (h : RamOk is128 ram)
    (e : readBlocks is128 n bytes ram = some ram') : RamOk is128 ram' := by
  induction n generalizing bytes ram with
  | zero => cases e; exact h
  | succ n ih =>
    match bytes with
    | [] => cases e; exact h
    | [_] => cases e
    | [_, _] => cases e
    | l :: hi :: id :: rest =>
      simp only [readBlocks] at e
      split at e
      · cases e; exact h
      · split at e
        · cases e
        · split at e
          · exact ih h e
          · next bank hb =>
            split at e
            · next hl => exact ih (h.setPage (pageToBank_mem hb) hl) e
            · cases e

theorem ramOk_readBody {p : Config.Params} {bytes : List Byte} {ram ram' : Memory} (h : RamOk false ram)
    (e : readBody p bytes ram = some ram') : RamOk false ram' := by
  unfold readBody at e
  simp only at e
  split at e
  · next hl =>
    cases e
    refine ((h.setPage (by decide) ?_).setPage (by decide) ?_).setPage (by decide) ?_ <;>
      simp only [List.length_take, List.length_drop, hl] <;> decide
  · cases e

/-- A version 1 file is one of a 48K machine (rule R465). -/
theorem parseHeader_version1 {bytes : List Byte} {h : Header} (e : parseHeader bytes = some h) (v : h.version1 = true) :
    h.is128 = false := by
  unfold parseHeader at e
  split_ifs at e
  · cases e; rfl
  · simp only [parseExtended] at e
    split_ifs at e
    cases e; cases v

/-- A load that succeeds reads a header, and RAM that is right for its mode. -/
theorem load_eq_some {s t : State} {bytes : List Byte} {fresh : Memory} (hs : s.Inv)
    (e : s.load bytes fresh = some t) :
    ∃ h ram, t = s.loadRegisters bytes h ram ∧ RamOk h.is128 ram := by
  unfold State.load at e
  split at e
  · cases e
  · next h hh =>
    simp only at e
    have start := ramOk_ramForLoad hs h.is128 fresh
    split at e
    · cases e
    · next ram hr =>
      cases e
      refine ⟨h, ram, rfl, ?_⟩
      split at hr
      · next v =>
        have mode := parseHeader_version1 hh v
        rw [mode] at start ⊢
        exact ramOk_readBody start (mode ▸ hr)
      · exact ramOk_readBlocks start hr

/-! ## The calls -/

namespace State

theorem Inv.load {s t : State} (hs : s.Inv) {bytes : List Byte} {fresh : Memory} (e : s.load bytes fresh = some t) :
    t.Inv := by
  obtain ⟨h, ram, rfl, ok⟩ := load_eq_some hs e
  exact ⟨ok.wf, hs.rom_wf, fun h48 => if_neg (Bool.eq_false_iff.1 h48), ok.absent⟩

/-- Reset puts MemorySelect at the value of the mode, and keeps memory and mode (rule R50). -/
theorem inv_resetWith {s : State} (g : ResetGPR) (hram : RamOk s.is128 s.ram) (hrom : s.rom.wf romSize = true) :
    (s.resetWith g).Inv where
  ram_wf := hram.wf
  rom_wf := hrom
  paging_48 h48 := congrArg resetPaging h48
  pages_48 := hram.absent

theorem Inv.romReload {s : State} (h : s.Inv) (slot : BitVec 1) (bytes : List Byte) : (s.romReload slot bytes).Inv := by
  unfold State.romReload
  split
  · next hb =>
    have := slot.isLt
    exact { h with rom_wf := Memory.wf_setPage h.rom_wf hb (by simp only [pageKey, romSize, pageSize]; omega) }
  · exact h

theorem Inv.writePage {s : State} (h : s.Inv) (bank : Bits3) (bytes : List Byte) : (s.writePage bank bytes).Inv := by
  unfold State.writePage
  split
  · next hb =>
    have ok := h.ramOk.setPage hb.2 hb.1
    exact { h with ram_wf := ok.wf, pages_48 := ok.absent }
  · exact h

end State

theorem HostCall.inv_run (c : HostCall) {s : State} (h : s.Inv) : (c.run s).Inv := by
  cases c with
  | reset g => exact State.inv_resetWith g h.ramOk h.rom_wf
  | romReload slot bytes => exact h.romReload slot bytes
  | writePage bank bytes => exact h.writePage bank bytes
  | load bytes fresh =>
    cases e : s.load bytes fresh with
    | none => simpa [HostCall.run, e] using h
    | some t => simpa [HostCall.run, e] using h.load e
  | raiseInt => exact h.of_sameMachine ⟨rfl, rfl, rfl, rfl, rfl⟩
  | clearInt => exact h.of_sameMachine ⟨rfl, rfl, rfl, rfl, rfl⟩
  | raiseNmi => exact h.of_sameMachine ⟨rfl, rfl, rfl, rfl, rfl⟩
  | setT n => exact h.of_sameMachine ⟨rfl, rfl, rfl, rfl, rfl⟩
  | answerPort v => exact h.of_sameMachine ⟨rfl, rfl, rfl, rfl, rfl⟩
  | answerBus v => exact h.of_sameMachine ⟨rfl, rfl, rfl, rfl, rfl⟩

/-- Settles O12: reset and machine-init give MemorySelect the value of the mode, a page is put in only where the mode has it,
and the other calls change neither memory nor mode. -/
theorem everyHostCallKeepsTheInvariant : Obligations.EveryHostCallKeepsTheInvariant := by
  refine ⟨fun c _ h => c.inv_run h, fun params is128 rom ram border g hrom hram => ?_⟩
  refine State.inv_resetWith g ?_ hrom
  cases is128 with
  | false => exact ramOk_dropAbsent hram false
  | true => exact ⟨hram, nofun⟩

end Sys2Proof.Machine
end

section
/-! PROOFS. The lookup of a finished instruction stops at its last byte, and a step runs the instruction it finds
(rules R121, R551). -/

namespace Sys2Proof

/-! ## Decoding with more bytes behind -/

/-- A finished instruction of `d` is that of `d'`, which leaves the bytes `more` besides. -/
def Extends (more : List Byte) (d d' : Decoded) : Prop :=
  ∀ i rest, d = .ok (i, rest) → i.complete = true → d' = .ok (i, rest ++ more)

section
variable {rest more : List Byte}

theorem extends_ok {i : Instr} : Extends more (.ok (i, rest)) (.ok (i, rest ++ more)) := by
  rintro _ _ ⟨⟩ _; rfl

theorem extends_withByte {f : Byte → Instr} : Extends more (withByte f rest) (withByte f (rest ++ more)) := by
  cases rest with
  | nil => nofun
  | cons n rest => exact extends_ok

theorem extends_withWord {f : Word → Instr} : Extends more (withWord f rest) (withWord f (rest ++ more)) := by
  match rest with
  | [] => nofun
  | [_] => nofun
  | l :: h :: rest => exact extends_ok

theorem extends_withTwoBytes {f : Byte → Byte → Instr} :
    Extends more (withTwoBytes f rest) (withTwoBytes f (rest ++ more)) := by
  match rest with
  | [] => nofun
  | [_] => nofun
  | d :: n :: rest => exact extends_ok

/-- A wrapper is finished when the instruction it wraps is. -/
theorem Extends.wrapDecoded {d d' : Decoded} (h : Extends more d d') {f : Instr → Instr}
    (hf : ∀ i, (f i).complete = true → i.complete = true) : Extends more (wrapDecoded f d) (wrapDecoded f d') := by
  rintro _ rest e hi
  match d, h, e with
  | .ok (j, _), h, e => cases e; rw [h j _ rfl (hf j hi)]; rfl

theorem extends_decodeMain0 (op : Byte) : Extends more (decodeMain0 op rest) (decodeMain0 op (rest ++ more)) := by
  unfold decodeMain0
  dsimp only
  repeat' first
    | exact extends_ok
    | exact extends_withByte
    | exact extends_withWord
    | split

theorem extends_decodeMain3 (op : Byte) : Extends more (decodeMain3 op rest) (decodeMain3 op (rest ++ more)) := by
  unfold decodeMain3
  dsimp only
  repeat' first
    | exact extends_ok
    | exact extends_withByte
    | exact extends_withWord
    | split

theorem extends_decodeMain (op : Byte) : Extends more (decodeMain op rest) (decodeMain op (rest ++ more)) := by
  unfold decodeMain
  split
  · exact extends_decodeMain0 op
  · exact extends_ok
  · exact extends_ok
  · exact extends_decodeMain3 op

theorem extends_edEntry (op : Byte) : Extends more (edEntry op rest) (edEntry op (rest ++ more)) := by
  unfold edEntry
  dsimp only
  repeat' first
    | exact extends_ok
    | exact extends_withWord
    | split

theorem extends_decodeCB : Extends more (decodeCB rest) (decodeCB (rest ++ more)) := by
  cases rest with
  | nil => rintro _ _ ⟨⟩ ⟨⟩
  | cons op rest => exact extends_ok

theorem extends_decodeED : Extends more (decodeED rest) (decodeED (rest ++ more)) := by
  cases rest with
  | nil => rintro _ _ ⟨⟩ ⟨⟩
  | cons op rest => exact extends_edEntry op

theorem extends_decodeXDCB (xy : XY) : Extends more (decodeXDCB xy rest) (decodeXDCB xy (rest ++ more)) := by
  match rest with
  | [] => rintro _ _ ⟨⟩ ⟨⟩
  | [_] => nofun
  | d :: op :: rest => exact extends_ok

/-- Which opcodes have an entry of their own after `DD` and `FD` does not depend on the bytes that follow. -/
theorem extends_xdEntry (xy : XY) (op : Byte) :
    Option.Rel (Extends more) (xdEntry xy op rest) (xdEntry xy op (rest ++ more)) := by
  unfold xdEntry
  dsimp only
  repeat' first
    | exact .none
    | exact .some extends_ok
    | exact .some extends_withByte
    | exact .some extends_withWord
    | exact .some extends_withTwoBytes
    | split

theorem extends_decodeIndexed (xy : XY) : Extends more (decodeIndexed xy rest) (decodeIndexed xy (rest ++ more)) := by
  induction rest generalizing xy with
  | nil => cases xy <;> rintro _ _ ⟨⟩ ⟨⟩
  | cons op rest ih =>
    simp only [decodeIndexed, List.cons_append]
    split
    · exact (ih _).wrapDecoded fun _ h => h
    · split
      · exact extends_decodeED.wrapDecoded fun _ h => h
      · split
        · exact extends_decodeXDCB xy
        · have h := extends_xdEntry (rest := rest) (more := more) xy op
          generalize xdEntry xy op rest = d, xdEntry xy op (rest ++ more) = d' at h ⊢
          cases h with
          | none => exact (extends_decodeMain op).wrapDecoded fun _ h => h
          | some h => exact h

theorem extends_decode (bytes : List Byte) : Extends more (decode bytes) (decode (bytes ++ more)) := by
  cases bytes with
  | nil => nofun
  | cons op bytes =>
    simp only [decode, List.cons_append]
    split
    · exact extends_decodeIndexed _
    · split
      · exact extends_decodeED
      · split
        · exact extends_decodeCB
        · exact extends_decodeMain op

end

/-- The lookup of a finished instruction reads no byte after it (rule R121). -/
theorem decode_append {bytes rest : List Byte} {i : Instr} (h : decode bytes = .ok (i, rest)) (hi : i.complete = true)
    (more : List Byte) : decode (bytes ++ more) = .ok (i, rest ++ more) :=
  extends_decode bytes i rest h hi

namespace Machine

/-! ## The lookup over memory -/

theorem bytesFrom_add (s : State) (n k : Nat) (a : Word) :
    s.bytesFrom (n + k) a = s.bytesFrom n a ++ s.bytesFrom k (a + BitVec.ofNat 16 n) := by
  induction n generalizing a with
  | zero => simp [State.bytesFrom]
  | succ n ih =>
    rw [Nat.succ_add, State.bytesFrom, ih, State.bytesFrom, List.cons_append,
      show a + 1 + BitVec.ofNat 16 n = a + BitVec.ofNat 16 (n + 1) by bv_omega]

/-- The lookup finds a finished instruction that stands in fewer bytes than it can reach. -/
theorem lookup_of_decode {s : State} {sofar rest : List Byte} {n : Nat} {i : Instr} (hn : n ≤ lookupWindow)
    (h : decode (sofar ++ s.bytesFrom n s.pc) = .ok (i, rest)) (hi : i.complete = true) : s.lookup sofar = some i := by
  obtain ⟨k, hk⟩ := Nat.exists_eq_add_of_le hn
  rw [State.lookup, hk, bytesFrom_add, ← List.append_assoc, decode_append h hi]
  exact if_pos hi

theorem lookup_complete {s : State} {sofar : List Byte} {i : Instr} (h : s.lookup sofar = some i) : i.complete = true := by
  unfold State.lookup at h
  split at h
  · split at h
    · next hi => cases h; exact hi
    · cases h
  · cases h

/-! ## The state after the fetch -/

/-- PC past the bytes, R counted (rules R28, R36). -/
theorem fetched_eq (s : State) (i : Instr) (bytes count : Nat) :
    s.fetched i bytes count = s.fetchedBy (i.encode.length - bytes) (rIncrements s.params i - count) := by
  have hpc (k : Nat) : s.pc + BitVec.ofNat 16 k = BitVec.ofNat 16 (s.pc.toNat + k) := by simp [BitVec.ofNat_add]
  exact congrArg₂ (fun pc r => { s with pc := pc, r := r }) (hpc _) (incR_countR s _)

theorem afterFetch_eq (s : State) (i : Instr) :
    s.afterFetch i = { s with eiDelay := false }.fetchedBy i.encode.length (rIncrements s.params i) :=
  fetched_eq (s.setEiDelay false) i 0 0

/-! ## The slot -/

/-- A finished instruction completes (rule R520). -/
theorem run_completes {i : Instr} (h : i.complete = true) (s : State) : ∃ t, run i s = .next t := by
  induction i with
  | indexAgain xy i ih => exact ih h
  | edAfterIndex xy i ih => exact ih h
  | indexNoEffect xy i ih => exact ih h
  | prefixCB | prefixDD | prefixED | prefixFD | prefixCBAfterIndex => cases h
  | _ => exact ⟨_, rfl⟩

theorem exec_completes {i : Instr} (h : i.complete = true) (s : State) : ∃ t, exec i s = .next t :=
  exec_eq_run h s ▸ run_completes h s

/-- An instruction slot: the instruction the lookup finds, and the cost of the slot. -/
theorem step_of_lookup {s t : State} {i : Instr} (hs : s.nextSlot = .instruction) (hl : s.lookup [] = some i)
    (he : exec i (s.afterFetch i) = .next t) : step s = .next (t.addT (s.instrCost i 0 0)) := by
  have hp : s.perform = .next t := by rw [State.perform, hs]; simpa only [hl] using he
  have hc : s.slotCost = s.instrCost i 0 0 := by rw [State.slotCost, hs]; simp only [hl]
  rw [step, hp, ← hc]

/-- Settles O5: the lookup finds the instruction that decoding fewer bytes gives, and the slot executes it. -/
theorem stepRunsTheDecodedInstruction : Obligations.StepRunsTheDecodedInstruction := by
  intro s n i rest hs hn h hi s1
  obtain ⟨t, he⟩ := exec_completes hi s1
  exact ⟨t, he, step_of_lookup hs (lookup_of_decode hn h hi) ((congrArg (exec i) (afterFetch_eq s i)).trans he)⟩

end Machine

end Sys2Proof
end

section
/-! PROOFS. The R increments of an instruction are those of its bytes (rule R130). -/

namespace Sys2Proof.Laws.FormOfTable

/-- The per-instruction lemmas, as one. -/
theorem statement : ∀ i : Instr, Statement i
  | .ldRR r r' => ldRR r r' | .ldRN r n => ldRN r n | .ldRHL r => ldRHL r | .ldRXYd xy r d => ldRXYd xy r d
  | .ldHLR r => ldHLR r | .ldXYdR xy r d => ldXYdR xy r d | .ldHLN n => ldHLN n | .ldXYdN xy d n => ldXYdN xy d n
  | .ldABC => ldABC | .ldADE => ldADE | .ldANN nn => ldANN nn | .ldBCA => ldBCA | .ldDEA => ldDEA
  | .ldNNA nn => ldNNA nn | .ldAI => ldAI | .ldAR => ldAR | .ldIA => ldIA | .ldRA => ldRA
  | .ldPP xy p p' => ldPP xy p p' | .ldXYHN xy n => ldXYHN xy n | .ldXYLN xy n => ldXYLN xy n
  | .ldDDNN dd nn => ldDDNN dd nn | .ldXYNN xy nn => ldXYNN xy nn | .ldHLNN nn => ldHLNN nn
  | .ldDDMem dd nn => ldDDMem dd nn | .ldXYMem xy nn => ldXYMem xy nn | .ldNNHL nn => ldNNHL nn
  | .ldNNDD nn dd => ldNNDD nn dd | .ldNNXY xy nn => ldNNXY xy nn | .ldSPHL => ldSPHL | .ldSPXY xy => ldSPXY xy
  | .pushQQ qq => pushQQ qq | .pushXY xy => pushXY xy | .popQQ qq => popQQ qq | .popXY xy => popXY xy
  | .exDEHL => exDEHL | .exAFAF => exAFAF | .exx => exx | .exSPHL => exSPHL | .exSPXY xy => exSPXY xy | .ldi => ldi
  | .ldir => ldir | .ldd => ldd | .lddr => lddr | .cpi => cpi | .cpir => cpir | .cpd => cpd | .cpdr => cpdr
  | .addR r => addR r | .addHL => addHL | .addN n => addN n | .addXYd xy d => addXYd xy d | .addXYH xy => addXYH xy
  | .addXYL xy => addXYL xy | .adcR r => adcR r | .adcHL => adcHL | .adcN n => adcN n | .adcXYd xy d => adcXYd xy d
  | .adcXYH xy => adcXYH xy | .adcXYL xy => adcXYL xy | .subR r => subR r | .subHL => subHL | .subN n => subN n
  | .subXYd xy d => subXYd xy d | .subXYH xy => subXYH xy | .subXYL xy => subXYL xy | .sbcR r => sbcR r
  | .sbcHL => sbcHL | .sbcN n => sbcN n | .sbcXYd xy d => sbcXYd xy d | .sbcXYH xy => sbcXYH xy
  | .sbcXYL xy => sbcXYL xy | .andR r => andR r | .andHL => andHL | .andN n => andN n | .andXYd xy d => andXYd xy d
  | .andXYH xy => andXYH xy | .andXYL xy => andXYL xy | .xorR r => xorR r | .xorHL => xorHL | .xorN n => xorN n
  | .xorXYd xy d => xorXYd xy d | .xorXYH xy => xorXYH xy | .xorXYL xy => xorXYL xy | .orR r => orR r | .orHL => orHL
  | .orN n => orN n | .orXYd xy d => orXYd xy d | .orXYH xy => orXYH xy | .orXYL xy => orXYL xy | .cpR r => cpR r
  | .cpHL => cpHL | .cpN n => cpN n | .cpXYd xy d => cpXYd xy d | .cpXYH xy => cpXYH xy | .cpXYL xy => cpXYL xy
  | .incR r => incR r | .incHL => incHL | .incXYd xy d => incXYd xy d | .incXYH xy => incXYH xy
  | .incXYL xy => incXYL xy | .decR r => decR r | .decHL => decHL | .decXYd xy d => decXYd xy d
  | .decXYH xy => decXYH xy | .decXYL xy => decXYL xy | .daa => daa | .cpl => cpl | .neg => neg
  | .negCopies y => negCopies y | .ccf => ccf | .scf => scf | .nop => nop | .halt => halt | .di => di | .ei => ei
  | .im0 => im0 | .im1 => im1 | .im2 => im2 | .im0Copies y => im0Copies y | .im1Copy => im1Copy | .im2Copy => im2Copy
  | .edNop op => edNop op | .addHLSS ss => addHLSS ss | .addXYPP xy pp => addXYPP xy pp | .adcHLSS ss => adcHLSS ss
  | .sbcHLSS ss => sbcHLSS ss | .incSS ss => incSS ss | .incXY xy => incXY xy | .decSS ss => decSS ss
  | .decXY xy => decXY xy | .rlca => rlca | .rla => rla | .rrca => rrca | .rra => rra | .rlcR r => rlcR r
  | .rlcHL => rlcHL | .rlcXYd xy d => rlcXYd xy d | .rlcXYdR xy d r => rlcXYdR xy d r | .rrcR r => rrcR r
  | .rrcHL => rrcHL | .rrcXYd xy d => rrcXYd xy d | .rrcXYdR xy d r => rrcXYdR xy d r | .rlR r => rlR r
  | .rlHL => rlHL | .rlXYd xy d => rlXYd xy d | .rlXYdR xy d r => rlXYdR xy d r | .rrR r => rrR r | .rrHL => rrHL
  | .rrXYd xy d => rrXYd xy d | .rrXYdR xy d r => rrXYdR xy d r | .slaR r => slaR r | .slaHL => slaHL
  | .slaXYd xy d => slaXYd xy d | .slaXYdR xy d r => slaXYdR xy d r | .sraR r => sraR r | .sraHL => sraHL
  | .sraXYd xy d => sraXYd xy d | .sraXYdR xy d r => sraXYdR xy d r | .sllR r => sllR r | .sllHL => sllHL
  | .sllXYd xy d => sllXYd xy d | .sllXYdR xy d r => sllXYdR xy d r | .srlR r => srlR r | .srlHL => srlHL
  | .srlXYd xy d => srlXYd xy d | .srlXYdR xy d r => srlXYdR xy d r | .rld => rld | .rrd => rrd
  | .bitBR b r => bitBR b r | .bitBHL b => bitBHL b | .bitBXYd xy d b => bitBXYd xy d b
  | .bitBXYdCopies xy d b z => bitBXYdCopies xy d b z | .resBR b r => resBR b r | .resBHL b => resBHL b
  | .resBXYd xy d b => resBXYd xy d b | .resBXYdR xy d b r => resBXYdR xy d b r | .setBR b r => setBR b r
  | .setBHL b => setBHL b | .setBXYd xy d b => setBXYd xy d b | .setBXYdR xy d b r => setBXYdR xy d b r
  | .jpNN nn => jpNN nn | .jpCcNN cc nn => jpCcNN cc nn | .jrE e => jrE e | .jrCcE cc e => jrCcE cc e | .jpHL => jpHL
  | .jpXY xy => jpXY xy | .djnzE e => djnzE e | .callNN nn => callNN nn | .callCcNN cc nn => callCcNN cc nn
  | .ret => ret | .retCc cc => retCc cc | .reti => reti | .retn => retn | .retnCopies y => retnCopies y
  | .rstP t => rstP t | .inAN n => inAN n | .inRC r => inRC r | .inFC => inFC | .outNA n => outNA n
  | .outCR r => outCR r | .outC0 => outC0 | .ini => ini | .inir => inir | .ind => ind | .indr => indr | .outi => outi
  | .otir => otir | .outd => outd | .otdr => otdr | .prefixCB => prefixCB | .prefixDD => prefixDD
  | .prefixED => prefixED | .prefixFD => prefixFD | .prefixCBAfterIndex xy => prefixCBAfterIndex xy
  | .indexAgain xy i => indexAgain xy i | .edAfterIndex xy i => edAfterIndex xy i
  | .indexNoEffect xy i => indexNoEffect xy i

end Sys2Proof.Laws.FormOfTable

namespace Sys2Proof

/-! ## The bytes of a row -/

/-- A byte that is none of `CB`, `DD`, `ED` and `FD` (rule R120). -/
abbrev IsOpcode (op : Byte) : Prop := op ≠ 0xCB ∧ op ≠ 0xDD ∧ op ≠ 0xED ∧ op ≠ 0xFD

theorem isOpcode_opByte {x : BitVec 2} {y z : Bits3} (h : x ≠ 3) : IsOpcode (opByte x y z) := by
  revert x y z; decide

theorem isOpcode_pairByte {x p : BitVec 2} {q : BitVec 1} {z : Bits3} (h : x ≠ 3) : IsOpcode (pairByte x p q z) := by
  revert x p q z; decide

/-- `DD` or `FD` stands in front of an instruction that it does not change (rules R135, R136). -/
def Instr.wrapped : Instr → Bool
  | .indexAgain _ _ | .edAfterIndex _ _ | .indexNoEffect _ _ => true
  | _ => false

/-- `DD` or `FD` in front of an instruction that it changes: an opcode follows. -/
theorem encode_of_xd {i : Instr} (ht : i.table = .xd) (hi : i.complete = true) (hw : i.wrapped = false) :
    ∃ xy op rest, i.encode = XY.code xy :: op :: rest ∧ IsOpcode op := by
  cases i <;> cases ht
  case indexAgain => cases hw
  case edAfterIndex => cases hw
  case indexNoEffect => cases hw
  case prefixCBAfterIndex => cases hi
  case ldRXYd => exact ⟨_, _, _, rfl, isOpcode_opByte (by decide)⟩
  case ldXYdR => exact ⟨_, _, _, rfl, isOpcode_opByte (by decide)⟩
  case ldPP => exact ⟨_, _, _, rfl, isOpcode_opByte (by decide)⟩
  case addXYPP => exact ⟨_, _, _, rfl, isOpcode_pairByte (by decide)⟩
  all_goals exact ⟨_, _, _, rfl, by decide⟩

theorem XY.code_ne_CB (xy : XY) : xy.code ≠ 0xCB := by cases xy <;> decide

/-- Only an instruction of the CB table begins with `CB`. -/
theorem head_encode_ne_CB {i : Instr} (ht : i.table ≠ .cb) (hi : i.complete = true) : i.encode.head? ≠ some 0xCB := by
  have form := Laws.FormOfTable.statement i
  unfold Laws.FormOfTable.Statement at form
  split at form
  · obtain ⟨op, rest, e, h⟩ := form
    rw [e]; exact (h hi).1 ∘ Option.some.inj
  · next h => exact absurd h ht
  · obtain ⟨op, rest, e⟩ := form
    rw [e]; exact (by decide : (0xED : Byte) ≠ 0xCB) ∘ Option.some.inj
  · obtain ⟨xy, rest, e⟩ := form
    rw [e]; exact xy.code_ne_CB ∘ Option.some.inj
  · obtain ⟨xy, d, op, e⟩ := form
    rw [e]; exact xy.code_ne_CB ∘ Option.some.inj

/-! ## `DD` and `FD` without effect stand in front of no CB instruction (rules R135, R136) -/

theorem table_ne_cb_of_beginsWithIndex {i : Instr} (h : i.beginsWithIndex = true) : i.table ≠ .cb := by
  intro table
  cases i <;> cases table <;> cases h

theorem table_ne_cb_of_beginsWithED {i : Instr} (h : i.beginsWithED = true) : i.table ≠ .cb := by
  intro table
  cases i <;> cases table <;> cases h

theorem table_ne_cb_of_indexInert {i : Instr} (h : i.indexInert = true) : i.table ≠ .cb := by
  intro table
  cases i <;> cases table <;> cases h

namespace Machine

/-! ## Increments -/

theorem fetchIncrements_opcode (n : Nat) {op : Byte} (rest : List Byte) (h : IsOpcode op) :
    fetchIncrements n (op :: rest) = 1 := by
  obtain ⟨cb, dd, ed, fd⟩ := h
  rw [fetchIncrements, if_neg (not_or.2 ⟨cb, ed⟩), if_neg (not_or.2 ⟨dd, fd⟩)]

theorem fetchIncrements_xdcb (n : Nat) (xy : XY) (rest : List Byte) : fetchIncrements n (xy.code :: 0xCB :: rest) = n := by
  cases xy <;> rfl

theorem fetchIncrements_index (n : Nat) (xy : XY) {rest : List Byte} (h : rest.head? ≠ some 0xCB) :
    fetchIncrements n (xy.code :: rest) = 1 + fetchIncrements n rest := by
  have hxy : ¬(xy.code = 0xCB ∨ xy.code = 0xED) ∧ (xy.code = 0xDD ∨ xy.code = 0xFD) := by cases xy <;> decide
  rw [fetchIncrements, if_neg hxy.1, if_pos hxy.2, if_neg h]

theorem rIncrements_eq_tableIncrements (p : Config.Params) {i : Instr} (hw : i.wrapped = false) :
    rIncrements p i = tableIncrements p i.table := by
  cases i
  case indexAgain => cases hw
  case edAfterIndex => cases hw
  case indexNoEffect => cases hw
  all_goals rfl

/-- The increments of a row are those of its bytes (the table of rule R130). -/
theorem rIncrements_row (p : Config.Params) {i : Instr} (hi : i.complete = true) (hw : i.wrapped = false) :
    rIncrements p i = fetchIncrements (rIncDdcbCount p) i.encode := by
  have form := Laws.FormOfTable.statement i
  rw [rIncrements_eq_tableIncrements p hw]
  unfold Laws.FormOfTable.Statement at form
  cases table : i.table <;> simp only [table] at form
  case main => obtain ⟨op, rest, e, h⟩ := form; rw [e, fetchIncrements_opcode _ _ (h hi)]; rfl
  case cb => obtain ⟨op, e⟩ := form; rw [e]; rfl
  case ed => obtain ⟨op, rest, e⟩ := form; rw [e]; rfl
  case xd =>
    obtain ⟨xy, op, rest, e, h⟩ := encode_of_xd table hi hw
    rw [e, fetchIncrements_index _ _ (by simpa using h.1), fetchIncrements_opcode _ _ h]; rfl
  case xdcb => obtain ⟨xy, d, op, e⟩ := form; rw [e, fetchIncrements_xdcb]; rfl

/-- The increments of an instruction are those of its bytes: one more for each `DD` or `FD` without effect. -/
theorem rIncrements_eq_fetchIncrements (p : Config.Params) {i : Instr} (hwf : i.wf = true) (hi : i.complete = true) :
    rIncrements p i = fetchIncrements (rIncDdcbCount p) i.encode := by
  have wrap (xy : XY) {j : Instr} (ht : j.table ≠ .cb) (hj : j.complete = true)
      (e : rIncrements p j = fetchIncrements (rIncDdcbCount p) j.encode) :
      1 + rIncrements p j = fetchIncrements (rIncDdcbCount p) (xy.code :: j.encode) := by
    rw [fetchIncrements_index _ _ (head_encode_ne_CB ht hj), e]
  induction i with
  | indexAgain xy j ih =>
    obtain ⟨hb, hj⟩ := Bool.and_eq_true_iff.1 hwf
    exact wrap xy (table_ne_cb_of_beginsWithIndex hb) hi (ih hj hi)
  | edAfterIndex xy j ih =>
    obtain ⟨hb, hj⟩ := Bool.and_eq_true_iff.1 hwf
    exact wrap xy (table_ne_cb_of_beginsWithED hb) hi (ih hj hi)
  | indexNoEffect xy j ih =>
    obtain ⟨hb, hj⟩ := Bool.and_eq_true_iff.1 hwf
    exact wrap xy (table_ne_cb_of_indexInert hb) hi (ih hj hi)
  | _ => exact rIncrements_row p hi rfl

end Machine
end Sys2Proof
end

section
/-! PROOFS. Instructions keep R, all but `LD R,A`, and a slot counts its fetches (rules R35, R36, R130). -/

namespace Sys2Proof.Machine

/-! ## The shared operations keep R -/

@[simp] theorem Flagged.into_r {w : Nat} (x : Flagged w) (put : BitVec w → State) : (x.into put).r = (put x.res).r := rfl
@[simp] theorem Drawn.into_eq (x : Drawn) (k : State → Byte → State) : x.into k = k x.state x.value := rfl

namespace State

@[simp] theorem setAF_r (s : State) (x : Flagged 8) : (s.setAF x).r = s.r := rfl
@[simp] theorem aluAdd_r (s : State) (b : Byte) : (s.aluAdd b).r = s.r := rfl
@[simp] theorem aluAdc_r (s : State) (b : Byte) : (s.aluAdc b).r = s.r := rfl
@[simp] theorem aluSub_r (s : State) (b : Byte) : (s.aluSub b).r = s.r := rfl
@[simp] theorem aluSbc_r (s : State) (b : Byte) : (s.aluSbc b).r = s.r := rfl
@[simp] theorem aluAnd_r (s : State) (b : Byte) : (s.aluAnd b).r = s.r := rfl
@[simp] theorem aluXor_r (s : State) (b : Byte) : (s.aluXor b).r = s.r := rfl
@[simp] theorem aluOr_r (s : State) (b : Byte) : (s.aluOr b).r = s.r := rfl
@[simp] theorem aluCp_r (s : State) (b : Byte) : (s.aluCp b).r = s.r := rfl
@[simp] theorem loadAFromControl_r (s : State) (v : Byte) : (s.loadAFromControl v).r = s.r := rfl
@[simp] theorem rotateA_r (s : State) (o : ShiftOp) : (s.rotateA o).r = s.r := rfl
@[simp] theorem shiftReg_r (s : State) (o : ShiftOp) (q : Reg8) : (s.shiftReg o q).r = s.r := rfl
@[simp] theorem bitTest_r (s : State) (b : Bits3) (v xy : Byte) : (s.bitTest b v xy).r = s.r := rfl
@[simp] theorem returnFromInterrupt_r (s : State) : s.returnFromInterrupt.r = s.r := rfl
@[simp] theorem writeMemCopy_r (s : State) (a : Word) (q : Reg8) (v : Byte) : (s.writeMemCopy a q v).r = s.r := by
  simp [writeMemCopy]
@[simp] theorem shiftMem_r (s : State) (o : ShiftOp) (a : Word) : (s.shiftMem o a).r = s.r := by simp [shiftMem]
@[simp] theorem shiftMemCopy_r (s : State) (o : ShiftOp) (a : Word) (q : Reg8) : (s.shiftMemCopy o a q).r = s.r := by
  simp [shiftMemCopy]
@[simp] theorem rotateDigitLeft_r (s : State) : s.rotateDigitLeft.r = s.r := by simp [rotateDigitLeft]
@[simp] theorem rotateDigitRight_r (s : State) : s.rotateDigitRight.r = s.r := by simp [rotateDigitRight]
@[simp] theorem portIn_state_r (s : State) (lo hi : Byte) : (s.portIn lo hi).state.r = s.r := rfl
@[simp] theorem portOut_r (s : State) (lo hi v : Byte) : (s.portOut lo hi v).r = s.r := by
  unfold portOut
  dsimp only
  split <;> split <;> simp
@[simp] theorem blockCopy_r (s : State) (d : Word) : (s.blockCopy d).r = s.r := by simp [blockCopy]
@[simp] theorem blockCompare_r (s : State) (d : Word) : (s.blockCompare d).r = s.r := by simp [blockCompare]
@[simp] theorem blockIn_r (s : State) (d : Word) : (s.blockIn d).r = s.r := by simp [blockIn]
@[simp] theorem blockOut_r (s : State) (d : Word) : (s.blockOut d).r = s.r := by simp [blockOut]

end State

/-! ## Instructions -/

theorem run_keeps_r {i : Instr} {s t : State} (h : run i s = .next t) (hi : i.core ≠ .ldRA) : t.r = s.r := by
  induction i with
  | indexAgain xy i ih => exact ih h hi
  | edAfterIndex xy i ih => exact ih h hi
  | indexNoEffect xy i ih => exact ih h hi
  | prefixCB | prefixDD | prefixED | prefixFD | prefixCBAfterIndex => cases h
  | ldRA => exact absurd rfl hi
  | _ => cases h; simp [apply_ite State.r]

theorem exec_keeps_r {i : Instr} {s t : State} (hi : i.complete = true) (hr : i.core ≠ .ldRA) (h : exec i s = .next t) :
    t.r = s.r :=
  run_keeps_r (exec_eq_run hi s ▸ h) hr

/-- Counting keeps bit 7 (rule R35). -/
theorem getLsbD_countR (r : Byte) (n : Nat) : (countR r n).getLsbD 7 = r.getLsbD 7 := by
  have mask : (0x80 : Byte).getLsbD 7 = true ∧ (0x7F : Byte).getLsbD 7 = false := by decide
  rw [countR, BitVec.getLsbD_or, BitVec.getLsbD_and, BitVec.getLsbD_and, mask.1, mask.2, Bool.and_true, Bool.and_false,
    Bool.or_false]

/-- Settles O16: execution keeps R, the increments are those of the bytes, and the state after the fetch has counted them. -/
theorem refreshRegisterCounts : Obligations.RefreshRegisterCounts := by
  refine ⟨fun i s t hi hr h => exec_keeps_r hi hr h, fun p i => rIncrements_eq_fetchIncrements p, ?_⟩
  intro s t i hs hl hr h
  have hi := lookup_complete hl
  obtain ⟨u, he⟩ := exec_completes hi (s.afterFetch i)
  cases (step_of_lookup hs hl he).symm.trans h
  have count : u.r = countR s.r (rIncrements s.params i) := by rw [exec_keeps_r hi hr he, afterFetch_eq]; rfl
  exact ⟨count, (congrArg (·.getLsbD 7) count).trans (getLsbD_countR s.r _)⟩

end Sys2Proof.Machine
end

section
/-! PROOFS. The memory map (rules R71 to R77, R80, R90): what every address reads and writes, and reads after writes. -/

namespace Sys2Proof.Machine

/-! ## The fields of MemorySelect as numbers (rule R44) -/

theorem toNat_romSelect (ms : Byte) : (romSelect ms).toNat = (ms.getLsbD 4).toNat := by
  rw [romSelect, BitVec.extractLsb'_toNat, BitVec.getLsbD, Nat.toNat_testBit, Nat.shiftRight_eq_div_pow]

theorem toNat_ramBank (ms : Byte) : (ramBank ms).toNat = ms.toNat % 8 :=
  BitVec.extractLsb'_toNat (n := 8) 0 3 ms

/-! ## Access through a routed address -/

/-- An address routed to ROM reads the page, and a write there is dropped (rules R76, R77). -/
theorem access_of_rom {s : State} {a : Word} {p : BitVec 1} (h : route s.memorySelect a = .rom p (a.extractLsb' 0 14))
    (v : Byte) : s.memRead a = s.rom.read (p.toNat * 16384 + a.toNat % 16384) ∧ s.memWrite a v = s := by
  constructor
  · rw [State.memRead_eq, h, ← toNat_offset]; rfl
  · rw [State.memWrite, h]

/-- An address routed to RAM reads the page, and a write there changes that byte only (rules R76, R77). -/
theorem access_of_ram {s : State} {a : Word} {p : Bits3} (h : route s.memorySelect a = .ram p (a.extractLsb' 0 14))
    (v : Byte) : s.memRead a = s.ram.read (p.toNat * 16384 + a.toNat % 16384) ∧
      OnlyByteWritten s (s.memWrite a v) (p.toNat * 16384 + a.toNat % 16384) v := by
  rw [← toNat_offset]
  exact ⟨by rw [State.memRead_eq, h]; rfl, onlyByteWritten_memWrite h v⟩

/-- A paging byte changes MemorySelect only (rule R80). -/
theorem setPaging_eq (s : State) (b : Byte) : s.setPaging b = { s with memorySelect := (s.setPaging b).memorySelect } := by
  unfold State.setPaging
  split <;> rfl

/-- Settles O14: the four ranges of the routing function, each with its page. -/
theorem addressesReachTheirPages : Obligations.AddressesReachTheirPages := by
  intro s a v
  have hr := route_eq s.memorySelect a
  refine ⟨fun h => ?_, fun h h' => ?_, fun h h' => ?_, fun h => ?_, fun b => ⟨State.setPaging_memorySelect s b, ?_⟩⟩
  · rw [if_pos h] at hr
    have key := access_of_rom hr v
    rwa [toNat_romSelect, Nat.mod_eq_of_lt (by omega)] at key
  · rw [if_neg (by omega), if_pos h'] at hr
    exact access_of_ram hr v
  · rw [if_neg (by omega), if_neg (by omega), if_pos h'] at hr
    exact access_of_ram hr v
  · rw [if_neg (by omega), if_neg (by omega), if_neg (by omega)] at hr
    rw [← toNat_ramBank]
    exact access_of_ram hr v
  · rw [← setPaging_eq]
    exact Frame.refl _

/-! ## Reads after writes -/

/-- A byte is stored at the addresses from 0x4000 on (rules R71, R77). -/
theorem Stored.memRead {s t : State} {a : Word} {v : Byte} (h : Stored s t a v) :
    t.memRead a = if 0x4000 ≤ a.toNat then v else s.memRead a :=
  h.trans (if_congr (ramKey_isSome s.memorySelect a) rfl rfl)

/-- A word read where a word was written: each byte is the new one from 0x4000 on (rules R88, R90). -/
theorem memRead16_memWrite16 (s : State) (a w : Word) :
    (s.memWrite16 a w).memRead16 a = joinBytes (if 0x4000 ≤ (a + 1).toNat then hi8 w else s.memRead (a + 1))
      (if 0x4000 ≤ a.toNat then lo8 w else s.memRead a) := by
  obtain ⟨low, high⟩ := stored_memWrite16 s a w
  rw [State.memRead16, low.memRead, high.memRead]

/-- Settles O15: a byte by the law of one store, a word by where its two bytes lie. -/
theorem readAfterWrite : Obligations.ReadAfterWrite := by
  intro s a v w
  constructor
  · intro b
    simp only [State.memRead_memWrite, ramKey_isSome, and_comm]
  · rw [memRead16_memWrite16]
    by_cases hlast : a = 0xFFFF
    · subst hlast; rfl
    · have succ : (a + 1).toNat = a.toNat + 1 := by bv_omega
      have hne : a.toNat ≠ 0xFFFF := by bv_omega
      rw [succ]
      by_cases hrom : a.toNat < 0x3FFF
      · rw [if_pos hrom, if_neg (by omega), if_neg (by omega)]; rfl
      by_cases hedge : a.toNat = 0x3FFF
      · rw [if_neg hrom, if_pos hedge, if_pos (by omega), if_neg (by omega)]
      · rw [if_neg hrom, if_neg hedge, if_neg hne, if_pos (by omega), if_pos (by omega), joinBytes_hi8_lo8]

end Sys2Proof.Machine
end

section
/-! PROOFS. Loads into memory (rules R164 to R167, R171 to R173, R205 to R207). -/

namespace Sys2Proof.Machine

/-- An 8-bit load into memory is one store. -/
theorem exec_of_storesByte {s : State} {i : Instr} {a : Word} {v : Byte} (h : StoresByte s i a v) :
    exec i s = .next (s.memWrite a v) := by
  cases h with
  | atHL r => rfl
  | immHL n => rfl
  | atXYd xy r d => cases xy <;> rfl
  | immXYd xy d n => cases xy <;> rfl
  | atBC => rfl
  | atDE => rfl
  | direct nn => rfl

/-- A 16-bit load into memory is one word store. -/
theorem exec_of_storesWord {s : State} {i : Instr} {a w : Word} (h : StoresWord s i a w) :
    exec i s = .next (s.memWrite16 a w) := by
  cases h with
  | hl nn => rfl
  | pair nn dd => cases dd <;> rfl
  | index xy nn => cases xy <;> rfl

/-- Settles O20: the load is `memWrite`. -/
theorem byteStoresSetTheirAddress : Obligations.ByteStoresSetTheirAddress := fun s _ a v h =>
  ⟨s.memWrite a v, exec_of_storesByte h, stored_memWrite s a v, frame_memWrite s a v⟩

/-- Settles O22: the load is `memWrite16`. -/
theorem wordStoresSetTwoBytes : Obligations.WordStoresSetTwoBytes := fun s _ a w h =>
  have ⟨low, high⟩ := stored_memWrite16 s a w
  ⟨s.memWrite16 a w, exec_of_storesWord h, low, high, frame_memWrite16 s a w⟩

end Sys2Proof.Machine
end

section
/-! PROOFS. Attribute bytes through the renderer's view (rules R82 to R86). -/

namespace Sys2Proof.Machine

/-! ## The two conversions (rule R84) -/

/-- The high bit of each channel of a colour's host form is the colour's own bit. -/
theorem getLsbD_expandColor (c : Bits3) (br : Bool) :
    (expandColor c br).getLsbD 1 = c.getLsbD 0 ∧ (expandColor c br).getLsbD 3 = c.getLsbD 2 ∧
      (expandColor c br).getLsbD 5 = c.getLsbD 1 := by
  simp only [expandColor, BitVec.getLsbD_append, BitVec.getLsbD_ofBool]
  simp

/-- Bit by bit: flash and bright stand as they are, ink and paper in the high bits of their channels. -/
theorem toSpectrumColor_fromSpectrumColor (v : Byte) : toSpectrumColor (fromSpectrumColor v) = v := by
  refine BitVec.eq_of_getLsbD_eq fun i hi => ?_
  simp only [toSpectrumColor, fromSpectrumColor, BitVec.getLsbD_append, BitVec.getLsbD_ofBool]
  interval_cases i <;> simp [-BitVec.getLsbD_eq_getElem, getLsbD_expandColor]

/-! ## The addresses of a video page (rules R71, R86) -/

/-- The offset of an address given as the start of its slot and an offset. -/
theorem offset_slot_add {slot : Word} (h : slot.toNat % 16384 = 0) (o : BitVec 14) :
    (slot + o.setWidth 16).extractLsb' 0 14 = o := by
  apply BitVec.eq_of_toNat_eq
  rw [toNat_offset, BitVec.toNat_add, BitVec.toNat_setWidth]
  omega

theorem route_slot_4000 (ms : Byte) (o : BitVec 14) : route ms (0x4000 + o.setWidth 16) = .ram 5 o := by
  have ha : (0x4000 + o.setWidth 16 : Word).toNat = 0x4000 + o.toNat := by bv_omega
  rw [route_eq, ha, if_neg (by omega), if_pos (by omega), offset_slot_add (by decide)]

theorem route_slot_C000 (ms : Byte) (o : BitVec 14) : route ms (0xC000 + o.setWidth 16) = .ram (ramBank ms) o := by
  have ha : (0xC000 + o.setWidth 16 : Word).toNat = 0xC000 + o.toNat := by bv_omega
  rw [route_eq, ha, if_neg (by omega), if_neg (by omega), if_neg (by omega), offset_slot_add (by decide)]

/-- An attribute byte written through an address routed to the displayed page (rules R82, R84, R85). -/
theorem displayed_memWrite {s : State} {a : Word} {o : BitVec 14}
    (h : route s.memorySelect a = .ram (displayedPage s.memorySelect) o) (hlo : 0x1800 ≤ o.toNat) (hhi : o.toNat < 0x1B00)
    (v : Byte) : (s.memWrite a v).displayed o = .colors (fromSpectrumColor v) := by
  rw [State.displayed, State.memWrite_memorySelect, State.memWrite_read, if_pos (ramKey_of_ram h), videoCell,
    if_neg (by omega), if_pos hhi]

/-- Settles O57: the address is routed to the displayed page, whose cell is the host word of the byte. -/
theorem attributesSurviveTheHostForm : Obligations.AttributesSurviveTheHostForm := by
  refine ⟨toSpectrumColor_fromSpectrumColor, fun s o v hlo hhi => ⟨fun shadow => ?_, fun shadow bank => ?_⟩⟩
  · have page : displayedPage s.memorySelect = 5 := if_neg (ne_true_of_eq_false shadow)
    refine ⟨_, displayed_memWrite ?_ hlo hhi v, toSpectrumColor_fromSpectrumColor v⟩
    rw [page, route_slot_4000]
  · have page : displayedPage s.memorySelect = 7 := if_pos shadow
    have bank7 : ramBank s.memorySelect = 7 := BitVec.eq_of_toNat_eq ((toNat_ramBank s.memorySelect).trans bank)
    refine ⟨_, displayed_memWrite ?_ hlo hhi v, toSpectrumColor_fromSpectrumColor v⟩
    rw [page, route_slot_C000, bank7]

end Sys2Proof.Machine
end

section
/-! PROOFS. The fields of an opcode, the lookup by first byte, and the first byte of an encoding (rules R121 to R125). -/

namespace Sys2Proof

/-! ## Fields and code tables -/

@[simp] theorem fieldX_opByte (x : BitVec 2) (y z : Bits3) : fieldX (opByte x y z) = x.toNat := by
  revert x y z; decide

@[simp] theorem fieldY_opByte (x : BitVec 2) (y z : Bits3) : fieldY (opByte x y z) = y := by
  revert x y z; decide

@[simp] theorem fieldZ_opByte (x : BitVec 2) (y z : Bits3) : fieldZ (opByte x y z) = z := by
  revert x y z; decide

@[simp] theorem Reg8.ofCode_code (r : Reg8) : Reg8.ofCode r.code = some r := by cases r <;> rfl

@[simp] theorem Reg8.ofCode_six : Reg8.ofCode 6#3 = none := rfl

theorem Reg8.exists_ofCode {c : Bits3} (h : c ≠ 6) : ∃ r, Reg8.ofCode c = some r := by
  have all : ∀ c : Bits3, c ≠ 6 → (Reg8.ofCode c).isSome := by decide
  exact Option.isSome_iff_exists.1 (all c h)

/-! ## Case splits over the fields of an opcode (rule R123) -/

theorem exists_opByte (op : Byte) : ∃ x y z, op = opByte x y z :=
  ⟨op.extractLsb' 6 2, fieldY op, fieldZ op, by revert op; decide⟩

/-- The four values of field `x`. -/
theorem bits2_cases {motive : BitVec 2 → Prop} (h0 : motive 0) (h1 : motive 1) (h2 : motive 2) (h3 : motive 3)
    (x : BitVec 2) : motive x := by
  obtain ⟨⟨n, h⟩⟩ := x
  interval_cases n <;> assumption

/-- The eight values of fields `y` and `z`. -/
theorem bits3_cases {motive : Bits3 → Prop} (h0 : motive 0) (h1 : motive 1) (h2 : motive 2) (h3 : motive 3) (h4 : motive 4)
    (h5 : motive 5) (h6 : motive 6) (h7 : motive 7) (y : Bits3) : motive y := by
  obtain ⟨⟨n, h⟩⟩ := y
  interval_cases n <;> assumption

/-! ## The lookup by first byte (rule R121) -/

theorem decode_index (xy : XY) (bytes : List Byte) : decode (xy.code :: bytes) = decodeIndexed xy bytes := by
  cases xy <;> rfl

theorem decodeIndexed_index (xy xy' : XY) (bytes : List Byte) :
    decodeIndexed xy (xy'.code :: bytes) = wrapDecoded (.indexAgain xy) (decode (xy'.code :: bytes)) := by
  cases xy' <;> rfl

theorem decodeIndexed_ED (xy : XY) (bytes : List Byte) :
    decodeIndexed xy (0xED :: bytes) = wrapDecoded (.edAfterIndex xy) (decode (0xED :: bytes)) := rfl

section
variable {op : Byte} (h : IsOpcode op) (xy : XY) (bytes : List Byte)
include h

theorem indexOf_opcode : indexOf op = none := by
  obtain ⟨-, dd, -, fd⟩ := h
  rw [indexOf, if_neg dd, if_neg fd]

theorem decode_opcode : decode (op :: bytes) = decodeMain op bytes := by
  obtain ⟨cb, -, ed, -⟩ := id h
  simp only [decode, indexOf_opcode h, if_neg ed, if_neg cb]

theorem decodeIndexed_opcode :
    decodeIndexed xy (op :: bytes) =
      (xdEntry xy op bytes).getD (wrapDecoded (.indexNoEffect xy) (decode (op :: bytes))) := by
  obtain ⟨cb, -, ed, -⟩ := id h
  simp only [decodeIndexed, indexOf_opcode h, if_neg ed, if_neg cb, decode_opcode h]
  cases xdEntry xy op bytes <;> rfl

end

/-! ## First bytes -/

/-- What a first byte can be (rules R120, R121). -/
theorem firstByte_cases {motive : Byte → Prop} (index : ∀ xy, motive (XY.code xy)) (ed : motive 0xED) (cb : motive 0xCB)
    (opcode : ∀ op, IsOpcode op → motive op) (op : Byte) : motive op := by
  by_cases hcb : op = 0xCB
  · exact hcb ▸ cb
  by_cases hdd : op = 0xDD
  · exact hdd ▸ index .ix
  by_cases hed : op = 0xED
  · exact hed ▸ ed
  by_cases hfd : op = 0xFD
  · exact hfd ▸ index .iy
  exact opcode op ⟨hcb, hdd, hed, hfd⟩

theorem XY.not_isOpcode_code (xy : XY) : ¬IsOpcode xy.code := by cases xy <;> decide

theorem XY.code_ne_ED (xy : XY) : xy.code ≠ 0xED := by cases xy <;> decide

/-! ## The first byte of an encoding -/

theorem encode_of_beginsWithIndex {i : Instr} (h : i.beginsWithIndex = true) :
    ∃ xy bytes, i.encode = XY.code xy :: bytes := by
  have form := Laws.FormOfTable.statement i
  simp only [Instr.beginsWithIndex, Bool.or_eq_true, beq_iff_eq] at h
  obtain ((table | table) | rfl) | rfl := h
  · rw [Laws.FormOfTable.Statement, table] at form; exact form
  · rw [Laws.FormOfTable.Statement, table] at form
    obtain ⟨xy, d, op, e⟩ := form
    exact ⟨xy, _, e⟩
  · exact ⟨.ix, [], rfl⟩
  · exact ⟨.iy, [], rfl⟩

theorem encode_of_beginsWithED {i : Instr} (h : i.beginsWithED = true) : ∃ bytes, i.encode = 0xED :: bytes := by
  have form := Laws.FormOfTable.statement i
  simp only [Instr.beginsWithED, Bool.or_eq_true, beq_iff_eq] at h
  obtain table | rfl := h
  · rw [Laws.FormOfTable.Statement, table] at form
    obtain ⟨op, rest, e⟩ := form
    exact ⟨_, e⟩
  · exact ⟨[], rfl⟩

theorem encode_of_main {i : Instr} (table : i.table = .main) (hi : i.complete = true) :
    ∃ op bytes, i.encode = op :: bytes ∧ IsOpcode op := by
  have form := Laws.FormOfTable.statement i
  rw [Laws.FormOfTable.Statement, table] at form
  obtain ⟨op, bytes, e, h⟩ := form
  exact ⟨op, bytes, e, h hi⟩

/-- `DD` or `FD` leaves an instruction unchanged just when its opcode has no entry of its own in their table (rule R135). -/
theorem indexInert_eq_isNone {i : Instr} (table : i.table = .main) (hi : i.complete = true) {op : Byte} {args : List Byte}
    (e : i.encode = op :: args) (xy : XY) (rest : List Byte) : i.indexInert = (xdEntry xy op rest).isNone := by
  cases i <;> cases table <;> cases e
  case ldRR r r' => cases r <;> cases r' <;> rfl
  case ldRN r _ | ldRHL r | ldHLR r | addR r | adcR r | subR r | sbcR r | andR r | xorR r | orR r | cpR r | incR r | decR r =>
    cases r <;> rfl
  case addHLSS dd | incSS dd | decSS dd | ldDDNN dd _ => cases dd <;> rfl
  case pushQQ qq | popQQ qq => cases qq <;> rfl
  case jpCcNN cc _ | callCcNN cc _ | jrCcE cc _ | retCc cc => cases cc <;> rfl
  case rstP t => cases t using bits3_cases <;> rfl
  case prefixCB | prefixDD | prefixED | prefixFD => cases hi
  all_goals rfl

theorem Instr.indexInert_main {i : Instr} (h : i.indexInert = true) : i.table = .main ∧ i.complete = true := by
  cases i <;> first | exact ⟨rfl, rfl⟩ | cases h

/-- The four kinds of first byte, each with what it says of the instruction (rules R135, R136). -/
theorem encode_cases (i : Instr) :
    (i.beginsWithIndex = true ∧ ∃ xy bytes, i.encode = XY.code xy :: bytes) ∨
    (i.beginsWithED = true ∧ ∃ bytes, i.encode = 0xED :: bytes) ∨
    (∃ bytes, i.encode = 0xCB :: bytes) ∨
    ((i.table = .main ∧ i.complete = true) ∧ ∃ op bytes, i.encode = op :: bytes ∧ IsOpcode op) := by
  cases table : i.table
  case main =>
    cases hi : i.complete
    · cases i <;> cases table <;> cases hi
      · exact .inr (.inr (.inl ⟨[], rfl⟩))
      · exact .inl ⟨rfl, .ix, [], rfl⟩
      · exact .inr (.inl ⟨rfl, [], rfl⟩)
      · exact .inl ⟨rfl, .iy, [], rfl⟩
    · exact .inr (.inr (.inr ⟨⟨rfl, rfl⟩, encode_of_main table hi⟩))
  case cb =>
    have form := Laws.FormOfTable.statement i
    rw [Laws.FormOfTable.Statement, table] at form
    obtain ⟨op, e⟩ := form
    exact .inr (.inr (.inl ⟨_, e⟩))
  case ed =>
    have h : i.beginsWithED = true := by rw [Instr.beginsWithED, table]; rfl
    exact .inr (.inl ⟨h, encode_of_beginsWithED h⟩)
  all_goals
    have h : i.beginsWithIndex = true := by rw [Instr.beginsWithIndex, table]; rfl
    exact .inl ⟨h, encode_of_beginsWithIndex h⟩

/-! ## What the first byte of decoded bytes says -/

theorem head_eq_of_append {code bytes rest tail : List Byte} {b op : Byte} (e : code = b :: bytes)
    (h : code ++ rest = op :: tail) : b = op := by
  subst e
  exact (List.cons.inj h).1

section
variable {i : Instr} {rest tail : List Byte}

theorem beginsWithIndex_of_encode {xy : XY} (e : i.encode ++ rest = xy.code :: tail) : i.beginsWithIndex = true := by
  obtain ⟨h, -⟩ | ⟨-, bytes, e'⟩ | ⟨bytes, e'⟩ | ⟨-, op, bytes, e', hop⟩ := encode_cases i
  · exact h
  · exact absurd (head_eq_of_append e' e).symm xy.code_ne_ED
  · exact absurd (head_eq_of_append e' e).symm xy.code_ne_CB
  · exact absurd (head_eq_of_append e' e ▸ hop) xy.not_isOpcode_code

theorem beginsWithED_of_encode (e : i.encode ++ rest = 0xED :: tail) : i.beginsWithED = true := by
  obtain ⟨-, xy, bytes, e'⟩ | ⟨h, -⟩ | ⟨bytes, e'⟩ | ⟨-, op, bytes, e', -, -, hed, -⟩ := encode_cases i
  · exact absurd (head_eq_of_append e' e) xy.code_ne_ED
  · exact h
  · exact absurd (head_eq_of_append e' e) (by decide)
  · exact absurd (head_eq_of_append e' e) hed

theorem indexInert_of_encode {op : Byte} {xy : XY} (hop : IsOpcode op) (e : i.encode ++ rest = op :: tail)
    (entry : xdEntry xy op tail = none) : i.indexInert = true := by
  obtain ⟨-, xy', bytes, e'⟩ | ⟨-, bytes, e'⟩ | ⟨bytes, e'⟩ | ⟨⟨table, hi⟩, op', bytes, e', -⟩ := encode_cases i
  · exact absurd (head_eq_of_append e' e ▸ hop) xy'.not_isOpcode_code
  · exact absurd (head_eq_of_append e' e ▸ hop) (by decide : ¬IsOpcode 0xED)
  · exact absurd (head_eq_of_append e' e ▸ hop) (by decide : ¬IsOpcode 0xCB)
  · rw [indexInert_eq_isNone table hi e' xy tail, head_eq_of_append e' e, entry]; rfl

end

end Sys2Proof
end

section
/-! PROOFS. Decoding an encoding gives the instruction (rules R120 to R127, R134 to R136). -/

namespace Sys2Proof

/-! ## Rows of the tables -/

theorem decode_CB {op : Byte} {i : Instr} (h : cbEntry op = i) : decode [0xCB, op] = .ok (i, []) := h ▸ rfl

theorem decode_XDCB {xy : XY} {d op : Byte} {i : Instr} (h : xdcbEntry xy d op = i) :
    decode [xy.code, 0xCB, d, op] = .ok (i, []) := by
  rw [← h, decode_index]; rfl

theorem withWord_halves (f : Word → Instr) (nn : Word) : withWord f [lo8 nn, hi8 nn] = .ok (f nn, []) := by
  rw [withWord, joinBytes_hi8_lo8]

/-- The rows by their operands; the last are those of operand bytes alone, and of no operand. -/
theorem decode_encode_row {i : Instr} (hw : i.wf = true) (hn : i.wrapped = false) : decode i.encode = .ok (i, []) := by
  cases i
  case indexAgain | edAfterIndex | indexNoEffect => cases hn
  case ldRR r r' => cases r <;> cases r' <;> rfl
  case ldRN r _ | ldRHL r | ldHLR r | addR r | adcR r | subR r | sbcR r | andR r | xorR r | orR r | cpR r | incR r | decR r
      | inRC r | outCR r => cases r <;> rfl
  case rlcR r | rrcR r | rlR r | rrR r | slaR r | sraR r | sllR r | srlR r => cases r <;> rfl
  case ldRXYd xy r _ | ldXYdR xy r _ => cases xy <;> cases r <;> rfl
  case ldPP xy p p' => cases p <;> cases p' <;> cases hw <;> cases xy <;> rfl
  case ldDDNN dd nn | ldDDMem dd nn => cases dd <;> exact withWord_halves _ nn
  case ldNNDD nn dd => cases dd <;> exact withWord_halves (fun nn => .ldNNDD nn _) nn
  case ldANN nn | ldNNA nn | ldHLNN nn | ldNNHL nn | jpNN nn | callNN nn => exact withWord_halves _ nn
  case ldXYNN xy nn | ldXYMem xy nn | ldNNXY xy nn => cases xy <;> exact withWord_halves _ nn
  case jpCcNN cc nn | callCcNN cc nn => cases cc <;> exact withWord_halves _ nn
  case retCc cc => cases cc <;> rfl
  case jrCcE cc e => cases cc <;> cases hw <;> rfl
  case pushQQ qq | popQQ qq => cases qq <;> rfl
  case addHLSS ss | adcHLSS ss | sbcHLSS ss | incSS ss | decSS ss => cases ss <;> rfl
  case addXYPP xy pp => cases xy <;> cases pp <;> rfl
  case rstP t => revert t; decide
  case negCopies y | im0Copies y | retnCopies y => revert y; decide
  case edNop op => revert op; decide
  case bitBR b r | resBR b r | setBR b r => exact decode_CB (by simp [cbEntry])
  case bitBHL b | resBHL b | setBHL b => exact decode_CB (by simp [cbEntry])
  case rlcXYdR xy d r | rrcXYdR xy d r | rlXYdR xy d r | rrXYdR xy d r | slaXYdR xy d r | sraXYdR xy d r | sllXYdR xy d r
      | srlXYdR xy d r => cases r <;> exact decode_XDCB rfl
  case bitBXYd xy d b | resBXYd xy d b | setBXYd xy d b => exact decode_XDCB (by simp [xdcbEntry])
  case resBXYdR xy d b r | setBXYdR xy d b r => exact decode_XDCB (by simp [xdcbEntry])
  case bitBXYdCopies xy d b z =>
    obtain ⟨r, hz⟩ := Reg8.exists_ofCode (bne_iff_ne.1 hw)
    exact decode_XDCB (by simp [xdcbEntry, hz])
  case ldXYdN xy _ _ | ldXYHN xy _ | ldXYLN xy _ | ldSPXY xy | pushXY xy | popXY xy | exSPXY xy | incXY xy | decXY xy
      | jpXY xy | prefixCBAfterIndex xy => cases xy <;> rfl
  case addXYd xy _ | adcXYd xy _ | subXYd xy _ | sbcXYd xy _ | andXYd xy _ | xorXYd xy _ | orXYd xy _ | cpXYd xy _
      | incXYd xy _ | decXYd xy _ => cases xy <;> rfl
  case addXYH xy | adcXYH xy | subXYH xy | sbcXYH xy | andXYH xy | xorXYH xy | orXYH xy | cpXYH xy | incXYH xy | decXYH xy
      | addXYL xy | adcXYL xy | subXYL xy | sbcXYL xy | andXYL xy | xorXYL xy | orXYL xy | cpXYL xy | incXYL xy
      | decXYL xy => cases xy <;> rfl
  case rlcXYd xy d | rrcXYd xy d | rlXYd xy d | rrXYd xy d | slaXYd xy d | sraXYd xy d | sllXYd xy d | srlXYd xy d =>
    exact decode_XDCB rfl
  all_goals rfl

/-! ## Every instruction -/

/-- A wrapper begins with an index register's byte, and what follows is the encoding of the instruction it wraps, whose first
byte leads the lookup to the wrapper's row (rules R135, R136). -/
theorem decode_encode {i : Instr} (h : i.wf = true) : decode i.encode = .ok (i, []) := by
  induction i with
  | indexAgain xy i ih =>
    obtain ⟨hb, hi⟩ := Bool.and_eq_true_iff.1 h
    obtain ⟨xy', bytes, e⟩ := encode_of_beginsWithIndex hb
    rw [Instr.encode, decode_index, e, decodeIndexed_index, ← e, ih hi]; rfl
  | edAfterIndex xy i ih =>
    obtain ⟨hb, hi⟩ := Bool.and_eq_true_iff.1 h
    obtain ⟨bytes, e⟩ := encode_of_beginsWithED hb
    rw [Instr.encode, decode_index, e, decodeIndexed_ED, ← e, ih hi]; rfl
  | indexNoEffect xy i ih =>
    obtain ⟨hb, hi⟩ := Bool.and_eq_true_iff.1 h
    obtain ⟨table, complete⟩ := Instr.indexInert_main hb
    obtain ⟨op, bytes, e, hop⟩ := encode_of_main table complete
    have entry := Option.isNone_iff_eq_none.1 (indexInert_eq_isNone table complete e xy bytes ▸ hb)
    rw [Instr.encode, decode_index, e, decodeIndexed_opcode hop, entry, ← e, ih hi]; rfl
  | _ => exact decode_encode_row h rfl

/-- Settles O1: decoding inverts encoding, by induction over the chain of index registers' bytes, and a finished lookup reads no
byte after its last. -/
theorem decodeOfEncodeIsTheInstruction : Obligations.DecodeOfEncodeIsTheInstruction :=
  fun _ h => ⟨decode_encode h, fun hi rest => decode_append (decode_encode h) hi rest⟩

end Sys2Proof
end

section
/-! PROOFS. Encoding a decoded instruction gives its bytes, and no opcode is invalid (rules R122, R131 to R137). -/

namespace Sys2Proof

/-! ## What one entry of a table reads -/

/-- `i` is finished and well formed, and `code` are its bytes. -/
structure Instr.EncodedAs (i : Instr) (code : List Byte) : Prop where
  encode : i.encode = code
  wf : i.wf = true
  complete : i.complete = true

/-- `d` is decoded from `rest`, which stands behind the bytes `code`: an instruction whose bytes are `code` and the first
bytes of `rest`, or `rest` has fewer than two bytes. -/
inductive DecodedFrom (code : List Byte) : List Byte → Decoded → Prop where
  | ok {i : Instr} {args : List Byte} (tail : List Byte) (h : i.EncodedAs (code ++ args)) :
    DecodedFrom code (args ++ tail) (.ok (i, tail))
  | outOfBytes {rest : List Byte} (h : rest.length < 2) : DecodedFrom code rest (.error .outOfBytes)

section
variable {code rest : List Byte}

theorem decodedFrom_ok {i : Instr} (h : i.EncodedAs code) : DecodedFrom code rest (.ok (i, rest)) :=
  .ok (args := []) rest ((List.append_nil code).symm ▸ h)

theorem decodedFrom_withByte {f : Byte → Instr} (h : ∀ n, (f n).EncodedAs (code ++ [n])) :
    DecodedFrom code rest (withByte f rest) := by
  cases rest with
  | nil => exact .outOfBytes Nat.zero_lt_two
  | cons n rest => exact .ok rest (h n)

theorem decodedFrom_withWord {f : Word → Instr} (h : ∀ nn, (f nn).EncodedAs (code ++ [lo8 nn, hi8 nn])) :
    DecodedFrom code rest (withWord f rest) := by
  match rest with
  | [] => exact .outOfBytes Nat.zero_lt_two
  | [_] => exact .outOfBytes Nat.one_lt_two
  | l :: u :: rest => exact .ok (args := [l, u]) rest (by simpa using h (joinBytes u l))

theorem decodedFrom_withTwoBytes {f : Byte → Byte → Instr} (h : ∀ d n, (f d n).EncodedAs (code ++ [d, n])) :
    DecodedFrom code rest (withTwoBytes f rest) := by
  match rest with
  | [] => exact .outOfBytes Nat.zero_lt_two
  | [_] => exact .outOfBytes Nat.one_lt_two
  | d :: n :: rest => exact .ok (args := [d, n]) rest (h d n)

/-! ## The entries of the tables -/

/-- Every opcode of the main table reads no operand, a byte or a word (rule R131). -/
theorem decodedFrom_decodeMain {op : Byte} (h : IsOpcode op) : DecodedFrom [op] rest (decodeMain op rest) := by
  obtain ⟨x, y, z, rfl⟩ := exists_opByte op
  cases x using bits2_cases <;> cases z using bits3_cases <;> cases y using bits3_cases <;> first
    | exact decodedFrom_ok ⟨rfl, rfl, rfl⟩
    | exact decodedFrom_withByte fun n => ⟨rfl, rfl, rfl⟩
    | exact decodedFrom_withWord fun n => ⟨rfl, rfl, rfl⟩
    | exact absurd h (by decide)

/-- Every opcode of the ED table reads no operand or a word (rule R133). -/
theorem decodedFrom_edEntry (op : Byte) : DecodedFrom [0xED, op] rest (edEntry op rest) := by
  obtain ⟨x, y, z, rfl⟩ := exists_opByte op
  cases x using bits2_cases <;> cases z using bits3_cases <;> cases y using bits3_cases <;> first
    | exact decodedFrom_ok ⟨rfl, rfl, rfl⟩
    | exact decodedFrom_withWord fun _ => ⟨rfl, rfl, rfl⟩
    | exact decodedFrom_withWord (f := (.ldNNDD · (PairDD.ofCode (fieldP _)))) fun _ => ⟨rfl, rfl, rfl⟩

/-- Every opcode of the CB table (rule R132). -/
theorem encodedAs_cbEntry (op : Byte) : (cbEntry op).EncodedAs [0xCB, op] := by
  obtain ⟨x, y, z, rfl⟩ := exists_opByte op
  cases x using bits2_cases <;> cases z using bits3_cases <;> cases y using bits3_cases <;> exact ⟨rfl, rfl, rfl⟩

/-- Every opcode of the table after `DD` or `FD` and `CB` (rule R137). -/
theorem encodedAs_xdcbEntry (xy : XY) (d op : Byte) : (xdcbEntry xy d op).EncodedAs [xy.code, 0xCB, d, op] := by
  obtain ⟨x, y, z, rfl⟩ := exists_opByte op
  cases x using bits2_cases <;> cases z using bits3_cases <;> cases y using bits3_cases <;> exact ⟨rfl, rfl, rfl⟩

/-- Every entry of the table after `DD` or `FD` reads no operand, a byte, a word or two bytes (rule R135). -/
theorem decodedFrom_xdEntry (xy : XY) (op : Byte) {d : Decoded} (h : xdEntry xy op rest = some d) :
    DecodedFrom [xy.code, op] rest d := by
  obtain ⟨x, y, z, rfl⟩ := exists_opByte op
  cases x using bits2_cases <;> cases z using bits3_cases <;> cases y using bits3_cases <;> cases h <;> first
    | exact decodedFrom_ok ⟨rfl, rfl, rfl⟩
    | exact decodedFrom_withByte fun n => ⟨rfl, rfl, rfl⟩
    | exact decodedFrom_withWord fun n => ⟨rfl, rfl, rfl⟩
    | exact decodedFrom_withTwoBytes fun d n => ⟨rfl, rfl, rfl⟩

end

/-! ## Encoding what was decoded -/

/-- What `d` answers is well formed, and its encoding and the bytes left are `bytes`. -/
def Decoded.Encodes (bytes : List Byte) (d : Decoded) : Prop :=
  ∀ i rest, d = .ok (i, rest) → i.wf = true ∧ i.encode ++ rest = bytes

theorem DecodedFrom.encodes {code rest : List Byte} {d : Decoded} (h : DecodedFrom code rest d) :
    d.Encodes (code ++ rest) := by
  cases h with
  | ok tail h => rintro _ _ ⟨⟩; exact ⟨h.wf, by rw [h.encode, List.append_assoc]⟩
  | outOfBytes => nofun

theorem encodes_ok {i : Instr} (h : i.wf = true) : Decoded.Encodes i.encode (.ok (i, [])) := by
  rintro _ _ ⟨⟩; exact ⟨h, List.append_nil _⟩

theorem Decoded.Encodes.wrapDecoded {bytes : List Byte} {d : Decoded} (h : d.Encodes bytes) {xy : XY} {f : Instr → Instr}
    (encode : ∀ i, (f i).encode = xy.code :: i.encode)
    (wf : ∀ i rest, i.wf = true → i.encode ++ rest = bytes → (f i).wf = true) :
    Decoded.Encodes (xy.code :: bytes) (wrapDecoded f d) := by
  rintro _ rest e
  match d, h, e with
  | .ok (i, _), h, e =>
    cases e
    obtain ⟨hi, e⟩ := h i _ rfl
    exact ⟨wf i _ hi e, by rw [encode, List.cons_append, e]⟩

theorem encodes_decodeED (bytes : List Byte) : (decodeED bytes).Encodes (0xED :: bytes) := by
  cases bytes with
  | nil => exact encodes_ok rfl
  | cons op rest => exact (decodedFrom_edEntry op).encodes

theorem encodes_decodeCB (bytes : List Byte) : (decodeCB bytes).Encodes (0xCB :: bytes) := by
  cases bytes with
  | nil => exact encodes_ok rfl
  | cons op rest => exact (decodedFrom_ok (encodedAs_cbEntry op)).encodes

theorem encodes_decodeXDCB (xy : XY) (bytes : List Byte) : (decodeXDCB xy bytes).Encodes (xy.code :: 0xCB :: bytes) := by
  match bytes with
  | [] => exact encodes_ok (i := .prefixCBAfterIndex xy) rfl
  | [_] => nofun
  | d :: op :: rest => exact (decodedFrom_ok (encodedAs_xdcbEntry xy d op)).encodes

theorem encodes_decodeIndexed (xy : XY) (bytes : List Byte) : (decodeIndexed xy bytes).Encodes (xy.code :: bytes) := by
  induction bytes generalizing xy with
  | nil => cases xy <;> exact encodes_ok rfl
  | cons op bytes ih =>
    cases op using firstByte_cases with
    | index xy' =>
      rw [decodeIndexed_index, decode_index]
      exact (ih xy').wrapDecoded (fun _ => rfl) fun i _ hi e => Bool.and_eq_true_iff.2 ⟨beginsWithIndex_of_encode e, hi⟩
    | ed =>
      exact (encodes_decodeED bytes).wrapDecoded (fun _ => rfl)
        fun i _ hi e => Bool.and_eq_true_iff.2 ⟨beginsWithED_of_encode e, hi⟩
    | cb => exact encodes_decodeXDCB xy bytes
    | opcode op hop =>
      rw [decodeIndexed_opcode hop, decode_opcode hop]
      cases entry : xdEntry xy op bytes with
      | some d => exact (decodedFrom_xdEntry xy op entry).encodes
      | none =>
        exact (decodedFrom_decodeMain hop).encodes.wrapDecoded (fun _ => rfl)
          fun i _ hi e => Bool.and_eq_true_iff.2 ⟨indexInert_of_encode hop e entry, hi⟩

theorem encodes_decode (bytes : List Byte) : (decode bytes).Encodes bytes := by
  cases bytes with
  | nil => nofun
  | cons op bytes =>
    cases op using firstByte_cases with
    | index xy => rw [decode_index]; exact encodes_decodeIndexed xy bytes
    | ed => exact encodes_decodeED bytes
    | cb => exact encodes_decodeCB bytes
    | opcode op hop => rw [decode_opcode hop]; exact (decodedFrom_decodeMain hop).encodes

/-- Settles O2: what each table reads is what its instructions encode to, and the bytes in front choose their wrappers. -/
theorem encodeOfDecodeIsTheBytes : Obligations.EncodeOfDecodeIsTheBytes := encodes_decode

/-! ## There is no invalid opcode (rule R122) -/

/-- `d` is a finished instruction. -/
def Decoded.Finished (d : Decoded) : Prop := ∃ i tail, d = .ok (i, tail) ∧ i.complete = true

theorem DecodedFrom.finished {code rest : List Byte} {d : Decoded} (h : DecodedFrom code rest d) (h2 : 2 ≤ rest.length) :
    d.Finished := by
  cases h with
  | ok tail h => exact ⟨_, tail, rfl, h.complete⟩
  | outOfBytes h => omega

theorem Decoded.Finished.wrapDecoded {d : Decoded} (h : d.Finished) {f : Instr → Instr}
    (hf : ∀ i, (f i).complete = i.complete) : Decoded.Finished (wrapDecoded f d) := by
  obtain ⟨i, tail, rfl, hi⟩ := h
  exact ⟨f i, tail, rfl, (hf i).trans hi⟩

section
variable {op : Byte} {rest : List Byte}

theorem finished_decodeED (h : 3 ≤ rest.length) : (decodeED rest).Finished := by
  match rest with
  | op :: rest => exact (decodedFrom_edEntry op).finished (Nat.le_of_succ_le_succ h)

theorem finished_decode (hop : ∀ xy, op ≠ XY.code xy) (h : 3 ≤ rest.length) : (decode (op :: rest)).Finished := by
  cases op using firstByte_cases with
  | index xy => exact absurd rfl (hop xy)
  | ed => exact finished_decodeED h
  | cb =>
    match rest with
    | op :: rest => exact ⟨_, rest, rfl, (encodedAs_cbEntry op).complete⟩
  | opcode op hop => rw [decode_opcode hop]; exact (decodedFrom_decodeMain hop).finished (by omega)

theorem finished_decodeIndexed (xy : XY) (hop : ∀ xy, op ≠ XY.code xy) (h : 3 ≤ rest.length) :
    (decodeIndexed xy (op :: rest)).Finished := by
  have alone := finished_decode hop h
  cases op using firstByte_cases with
  | index xy => exact absurd rfl (hop xy)
  | ed => exact alone.wrapDecoded fun _ => rfl
  | cb =>
    match rest with
    | d :: op :: rest => exact ⟨_, rest, rfl, (encodedAs_xdcbEntry xy d op).complete⟩
  | opcode op hop =>
    rw [decodeIndexed_opcode hop]
    cases entry : xdEntry xy op rest with
    | some d => exact (decodedFrom_xdEntry xy op entry).finished (by omega)
    | none => exact alone.wrapDecoded fun _ => rfl

end

theorem eq_code_of_index {b : Byte} (h : b = 0xDD ∨ b = 0xFD) : ∃ xy, b = XY.code xy := by
  obtain rfl | rfl := h
  · exact ⟨.ix, rfl⟩
  · exact ⟨.iy, rfl⟩

/-- Settles O3: every entry of every table is an instruction, and needs at most three bytes after its first. -/
theorem noByteSequenceIsInvalid : Obligations.NoByteSequenceIsInvalid := by
  intro pre op rest hpre hdd hfd h
  have hop (xy : XY) : op ≠ xy.code := by cases xy <;> assumption
  induction pre with
  | nil => exact finished_decode hop h
  | cons b pre ih =>
    rw [List.forall_mem_cons] at hpre
    obtain ⟨hb, hpre⟩ := hpre
    obtain ⟨xy, rfl⟩ := eq_code_of_index hb
    rw [List.cons_append, decode_index]
    match pre, hpre, ih hpre with
    | [], _, _ => exact finished_decodeIndexed xy hop h
    | b' :: pre, hpre, ih =>
      obtain ⟨xy', rfl⟩ := eq_code_of_index (hpre b' List.mem_cons_self)
      rw [List.cons_append, decodeIndexed_index]
      exact Decoded.Finished.wrapDecoded ih fun _ => rfl

end Sys2Proof
end

section
/-! PROOFS. Lookups that go on at PC, endless lookups, and `DD` and `FD` without effect (rules R121, R135, R136, R139). -/

namespace Sys2Proof.Machine

/-! ## The lookup goes on at PC -/

/-- A row at which the lookup continues fetches the rest of its instruction (rules R121, R136, R137). -/
theorem exec_eq_resume {p : Instr} (h : p.complete = false) (s : State) :
    exec p s = s.resume p.encode (rIncrements s.params p) := by
  cases p
  case prefixCB | prefixDD | prefixED | prefixFD | prefixCBAfterIndex => rfl
  case indexAgain xy i | edAfterIndex xy i | indexNoEffect xy i => exact if_neg (ne_true_of_eq_false h)
  all_goals cases h

theorem resume_of_lookup {s : State} {sofar : List Byte} {i : Instr} (h : s.lookup sofar = some i) (count : Nat) :
    s.resume sofar count = exec i (s.fetchedBy (i.encode.length - sofar.length) (rIncrements s.params i - count)) := by
  rw [exec_eq_run (lookup_complete h), ← fetched_eq]
  simp only [State.resume, h]

/-- Settles O6: the row resumes the lookup with its own bytes in front of those at PC. -/
theorem prefixBytesContinueTheLookup : Obligations.PrefixBytesContinueTheLookup := by
  intro s p n i rest hp hn h hi
  obtain ⟨t, ht⟩ := exec_completes hi
    (s.fetchedBy (i.encode.length - p.encode.length) (rIncrements s.params i - rIncrements s.params p))
  refine ⟨t, ?_, ht⟩
  rw [exec_eq_resume hp, resume_of_lookup (lookup_of_decode hn h hi), ht]

/-! ## An index register's byte at every address (rule R139) -/

/-- A run of `DD` and `FD` is an unfinished lookup (rule R136). -/
theorem decodeIndexed_indexRun (xy : XY) {bytes : List Byte} (h : ∀ b ∈ bytes, b = 0xDD ∨ b = 0xFD) :
    ∃ i, decodeIndexed xy bytes = .ok (i, []) ∧ i.complete = false := by
  induction bytes generalizing xy with
  | nil => cases xy <;> exact ⟨_, rfl, rfl⟩
  | cons b bytes ih =>
    rw [List.forall_mem_cons] at h
    obtain ⟨hb, hbytes⟩ := h
    obtain ⟨xy', rfl⟩ := eq_code_of_index hb
    obtain ⟨i, e, hi⟩ := ih xy' hbytes
    exact ⟨.indexAgain xy i, by rw [decodeIndexed_index, decode_index, e]; rfl, hi⟩

theorem bytesFrom_indexRun {s : State} (h : ∀ a, s.memRead a = 0xDD ∨ s.memRead a = 0xFD) (n : Nat) (a : Word) :
    ∀ b ∈ s.bytesFrom n a, b = 0xDD ∨ b = 0xFD := by
  induction n generalizing a with
  | zero => nofun
  | succ n ih => exact List.forall_mem_cons.2 ⟨h a, ih (a + 1)⟩

theorem lookup_of_indexRun {s : State} (h : ∀ a, s.memRead a = 0xDD ∨ s.memRead a = 0xFD) {sofar : List Byte}
    (hs : ∀ b ∈ sofar, b = 0xDD ∨ b = 0xFD) : s.lookup sofar = none := by
  have hb := List.forall_mem_append.2 ⟨hs, bytesFrom_indexRun h lookupWindow s.pc⟩
  rw [State.lookup]
  generalize sofar ++ s.bytesFrom lookupWindow s.pc = bytes at hb
  cases bytes with
  | nil => rfl
  | cons b bytes =>
    rw [List.forall_mem_cons] at hb
    obtain ⟨xy, rfl⟩ := eq_code_of_index hb.1
    obtain ⟨i, e, hi⟩ := decodeIndexed_indexRun xy hb.2
    rw [decode_index, e]
    exact if_neg (ne_true_of_eq_false hi)

theorem resume_of_no_lookup {s : State} {sofar : List Byte} (h : s.lookup sofar = none) (count : Nat) :
    s.resume sofar count = .fault .unboundedPrefixRun := by
  simp only [State.resume, h]

theorem step_of_no_lookup {s : State} (hs : s.nextSlot = .instruction) (h : s.lookup [] = none) :
    step s = .fault .unboundedPrefixRun := by
  have hp : s.perform = .fault .unboundedPrefixRun := by simp only [State.perform, hs, h]
  rw [step, hp]

/-- Settles O7: the bytes from any address on are a run of `DD` and `FD`, so no lookup ends. -/
theorem endlessPrefixRunHasNoStep : Obligations.EndlessPrefixRunHasNoStep := by
  intro s h
  exact ⟨resume_of_no_lookup (lookup_of_indexRun h (by decide)) 1, resume_of_no_lookup (lookup_of_indexRun h (by decide)) 1,
    fun hs => step_of_no_lookup hs (lookup_of_indexRun h nofun)⟩

/-! ## `DD` and `FD` without effect -/

/-- Settles O9: the meaning of a wrapper is that of the instruction it wraps, and its counts are 4 and 1 more. -/
theorem indexPrefixWithoutEffect : Obligations.IndexPrefixWithoutEffect := by
  intro xy i s hi p hp
  obtain ⟨t, ht⟩ := exec_completes hi s
  simp only [List.mem_cons, List.not_mem_nil, or_false] at hp
  obtain rfl | rfl | rfl := hp
  all_goals exact ⟨⟨t, (if_pos hi).trans ((exec_eq_run hi s).symm.trans ht), ht⟩, Nat.add_comm 4 _, Nat.add_comm 1 _⟩

end Sys2Proof.Machine
end

section
/-! PROOFS. What every slot adds to T, and `step(max_t_states)` (rules R551, R553). -/

namespace Sys2Proof.Machine

/-! ## Execution keeps T -/

@[simp] theorem Flagged.into_t {w : Nat} (x : Flagged w) (put : BitVec w → State) : (x.into put).t = (put x.res).t := rfl

namespace State

@[simp] theorem setAF_t (s : State) (x : Flagged 8) : (s.setAF x).t = s.t := rfl
@[simp] theorem aluAdd_t (s : State) (b : Byte) : (s.aluAdd b).t = s.t := rfl
@[simp] theorem aluAdc_t (s : State) (b : Byte) : (s.aluAdc b).t = s.t := rfl
@[simp] theorem aluSub_t (s : State) (b : Byte) : (s.aluSub b).t = s.t := rfl
@[simp] theorem aluSbc_t (s : State) (b : Byte) : (s.aluSbc b).t = s.t := rfl
@[simp] theorem aluAnd_t (s : State) (b : Byte) : (s.aluAnd b).t = s.t := rfl
@[simp] theorem aluXor_t (s : State) (b : Byte) : (s.aluXor b).t = s.t := rfl
@[simp] theorem aluOr_t (s : State) (b : Byte) : (s.aluOr b).t = s.t := rfl
@[simp] theorem aluCp_t (s : State) (b : Byte) : (s.aluCp b).t = s.t := rfl
@[simp] theorem loadAFromControl_t (s : State) (v : Byte) : (s.loadAFromControl v).t = s.t := rfl
@[simp] theorem rotateA_t (s : State) (o : ShiftOp) : (s.rotateA o).t = s.t := rfl
@[simp] theorem shiftReg_t (s : State) (o : ShiftOp) (q : Reg8) : (s.shiftReg o q).t = s.t := rfl
@[simp] theorem bitTest_t (s : State) (b : Bits3) (v xy : Byte) : (s.bitTest b v xy).t = s.t := rfl
@[simp] theorem returnFromInterrupt_t (s : State) : s.returnFromInterrupt.t = s.t := rfl
@[simp] theorem writeMemCopy_t (s : State) (a : Word) (q : Reg8) (v : Byte) : (s.writeMemCopy a q v).t = s.t := by
  simp [writeMemCopy]
@[simp] theorem shiftMem_t (s : State) (o : ShiftOp) (a : Word) : (s.shiftMem o a).t = s.t := by simp [shiftMem]
@[simp] theorem shiftMemCopy_t (s : State) (o : ShiftOp) (a : Word) (q : Reg8) : (s.shiftMemCopy o a q).t = s.t := by
  simp [shiftMemCopy]
@[simp] theorem rotateDigitLeft_t (s : State) : s.rotateDigitLeft.t = s.t := by simp [rotateDigitLeft]
@[simp] theorem rotateDigitRight_t (s : State) : s.rotateDigitRight.t = s.t := by simp [rotateDigitRight]
@[simp] theorem portIn_state_t (s : State) (lo hi : Byte) : (s.portIn lo hi).state.t = s.t := rfl
@[simp] theorem busByte_state_t (s : State) : s.busByte.state.t = s.t := rfl
@[simp] theorem portOut_t (s : State) (lo hi v : Byte) : (s.portOut lo hi v).t = s.t := by
  unfold portOut
  dsimp only
  split <;> split <;> simp
@[simp] theorem blockCopy_t (s : State) (d : Word) : (s.blockCopy d).t = s.t := by simp [blockCopy]
@[simp] theorem blockCompare_t (s : State) (d : Word) : (s.blockCompare d).t = s.t := by simp [blockCompare]
@[simp] theorem blockIn_t (s : State) (d : Word) : (s.blockIn d).t = s.t := by simp [blockIn]
@[simp] theorem blockOut_t (s : State) (d : Word) : (s.blockOut d).t = s.t := by simp [blockOut]
@[simp] theorem takeInterrupt_t (s : State) (w : Word) : (s.takeInterrupt w).t = s.t := by simp [takeInterrupt]
@[simp] theorem enterMode2_t (s : State) : s.enterMode2.t = s.t := by simp [enterMode2]

end State

theorem run_keeps_t {i : Instr} {s t : State} (h : run i s = .next t) : t.t = s.t := by
  induction i with
  | indexAgain xy i ih => exact ih h
  | edAfterIndex xy i ih => exact ih h
  | indexNoEffect xy i ih => exact ih h
  | prefixCB | prefixDD | prefixED | prefixFD | prefixCBAfterIndex => cases h
  | _ => cases h; simp [apply_ite State.t]

theorem exec_keeps_t {i : Instr} {s t : State} (hi : i.complete = true) (h : exec i s = .next t) : t.t = s.t :=
  run_keeps_t (exec_eq_run hi s ▸ h)

/-! ## Every slot costs at least 4 T-states (rule R553) -/

theorem four_le_baseCost {i : Instr} (h : i.complete = true) (s : State) : 4 ≤ baseCost i s := by
  induction i with
  | indexAgain | edAfterIndex | indexNoEffect => exact Nat.le_add_right 4 _
  | prefixCB | prefixDD | prefixED | prefixFD | prefixCBAfterIndex => cases h
  | jrCcE | djnzE | callCcNN | retCc | ldir | lddr | cpir | cpdr | inir | indr | otir | otdr =>
    rw [baseCost]; split <;> decide
  | _ => exact Nat.le_add_left 4 _

theorem four_le_costWith {base : Nat} (h : 4 ≤ base) (s : State) (code : List Byte) (cycles : List Word) :
    4 ≤ costWith s base code cycles :=
  h.trans (Nat.le_add_right base _)

theorem four_le_instrCost {i : Instr} (h : i.complete = true) (s : State) (bytes extra : Nat) :
    4 ≤ s.instrCost i bytes extra :=
  four_le_costWith ((four_le_baseCost h s).trans (Nat.le_add_right _ extra)) _ _ _

/-! ## What a slot answers -/

/-- `r` is a state with the T-states of `s`, for a cost of at least 4, or the endless run of prefixes (rules R139, R553). -/
def Performs (s : State) (r : Result) (cost : Nat) : Prop :=
  (∃ t, r = .next t ∧ t.t = s.t ∧ 4 ≤ cost) ∨ r = .fault .unboundedPrefixRun

theorem performs_enterMode0 {s : State} (im : s.im = .im0) : Performs s s.enterMode0 s.intCost := by
  cases h : s.mode0Byte.state.lookup [s.mode0Byte.value] with
  | none => exact .inr (resume_of_no_lookup h 0)
  | some i =>
    have hi := lookup_complete h
    obtain ⟨t, ht⟩ := exec_completes hi _
    refine .inl ⟨t, (resume_of_lookup h 0).trans ht, (exec_keeps_t hi ht).trans rfl, ?_⟩
    simp only [State.intCost, im, h]
    exact four_le_instrCost hi s 1 2

theorem performs_enterInt (s : State) : Performs s s.enterInt s.intCost := by
  cases im : s.im with
  | im0 => simpa only [State.enterInt, im] using performs_enterMode0 im
  | im1 =>
    simp only [State.enterInt, State.intCost, im]
    exact .inl ⟨s.enterMode1, rfl, State.takeInterrupt_t _ _, four_le_costWith (by decide) _ _ _⟩
  | im2 =>
    simp only [State.enterInt, State.intCost, im]
    exact .inl ⟨s.enterMode2, rfl, State.enterMode2_t s, four_le_costWith (by decide) _ _ _⟩

/-- The four kinds of slot (rule R539). -/
theorem performs_slot (s : State) : Performs s s.perform s.slotCost := by
  rw [State.perform, State.slotCost]
  cases s.nextSlot with
  | nmi => exact .inl ⟨s.enterNmi, rfl, State.takeInterrupt_t _ _, four_le_costWith (by decide) _ _ _⟩
  | int => exact performs_enterInt s
  | haltedNop => exact .inl ⟨s.haltedSlot, rfl, rfl, le_rfl⟩
  | instruction =>
    cases h : s.lookup [] with
    | none => exact .inr rfl
    | some i =>
      have hi := lookup_complete h
      obtain ⟨t, ht⟩ := exec_completes hi (s.afterFetch i)
      exact .inl ⟨t, ht, (exec_keeps_t hi ht).trans rfl, four_le_instrCost hi s 0 0⟩

/-- A slot adds its cost, which is at least 4, to T, or has no step (rules R139, R551, R553). -/
theorem step_cases (s : State) :
    (∃ t, step s = .next t ∧ t.t = s.t + s.slotCost ∧ 4 ≤ s.slotCost) ∨ step s = .fault .unboundedPrefixRun := by
  rw [step]
  obtain ⟨t, e, ht, cost⟩ | e := performs_slot s
  · rw [e]; exact .inl ⟨_, rfl, congrArg (· + s.slotCost) ht, cost⟩
  · rw [e]; exact .inr rfl

theorem step_next {s t : State} (h : step s = .next t) : t.t = s.t + s.slotCost ∧ 4 ≤ s.slotCost := by
  obtain ⟨t', e, ht⟩ | e := step_cases s
  · cases h.symm.trans e; exact ht
  · cases h.symm.trans e

/-! ## The budget -/

theorem stepBudget_of_fault {s : State} {f : Fault} (h : step s = .fault f) (max : Nat) : stepBudget s max = .fault f := by
  rw [stepBudget, stepWithin, h]

theorem stepBudget_of_not_fits {s u : State} {max : Nat} (h : step s = .next u) (hc : max < s.slotCost) :
    stepBudget s max = .next (s, 0) := by
  rw [stepBudget, stepWithin, h]
  exact if_pos ((Nat.zero_add _).symm ▸ hc)

/-- A slot that fits, then the call with the rest of the budget (rule R551). -/
theorem stepBudget_of_fits {s u : State} {max : Nat} (h : step s = .next u) (hc : s.slotCost ≤ max) :
    stepBudget s max =
      match stepBudget u (max - s.slotCost) with
      | .next (t, n) => .next (t, n + s.slotCost)
      | .fault f => .fault f
      | .refused r => .refused r := by
  have cost := (step_next h).2
  have fuel := stepWithin_fuel (fun _ _ h => (step_next h).2) (max := max) (n := max / 4)
    (m := (max - s.slotCost) / 4 + 1) (total := 0 + s.slotCost) u (by omega) (by omega) (by omega)
  have shift := stepWithin_shift (max - s.slotCost) ((max - s.slotCost) / 4 + 1) 0 s.slotCost u
  rw [Nat.sub_add_cancel hc] at shift
  rw [stepBudget, stepWithin, h]
  exact (if_neg (by omega)).trans (fuel.trans shift)

/-- What a call answers (rule R551), by the slots that fit its budget. -/
theorem stepBudget_cases (s : State) (max : Nat) :
    (∃ t n, stepBudget s max = .next (t, n) ∧ n ≤ max ∧ t.t = s.t + n ∧ ∀ u, step t = .next u → max < n + t.slotCost) ∨
      stepBudget s max = .fault .unboundedPrefixRun := by
  induction max using Nat.strongRecOn generalizing s with
  | ind max ih =>
    obtain ⟨u, h, hu, cost⟩ | h := step_cases s
    · by_cases hc : s.slotCost ≤ max
      · rw [stepBudget_of_fits h hc]
        obtain ⟨t, n, e, hn, ht, stop⟩ | e := ih (max - s.slotCost) (by omega) u <;> rw [e]
        · exact .inl ⟨t, n + s.slotCost, rfl, by omega, by omega, fun v hv => by have := stop v hv; omega⟩
        · exact .inr rfl
      · have hc := Nat.lt_of_not_le hc
        exact .inl ⟨s, 0, stepBudget_of_not_fits h hc, Nat.zero_le _, rfl, fun _ _ => by omega⟩
    · exact .inr (stepBudget_of_fault h max)

/-- Settles O18: one slot that fits and then the call with the rest, by induction on the budget. -/
theorem budgetIsNeverExceeded : Obligations.BudgetIsNeverExceeded := by
  intro s max
  refine ⟨fun t n h => ?_, fun u h hc => stepBudget_of_not_fits h hc, fun u h hc => ⟨fun t n e => ?_, fun f e => ?_⟩,
    fun f h => stepBudget_of_fault h max, fun r h => ?_⟩
  · obtain ⟨t', n', e, bound⟩ | e := stepBudget_cases s max <;> cases h.symm.trans e
    exact bound
  · rw [stepBudget_of_fits h hc, e, Nat.add_comm]
  · rw [stepBudget_of_fits h hc, e]
  · obtain ⟨t, n, e, -⟩ | e := stepBudget_cases s max <;> cases h.symm.trans e

end Sys2Proof.Machine
end

section
/-! PROOFS. Loads into an 8-bit register (rules R160 to R163, R168 to R170, R176 to R181). -/

namespace Sys2Proof.Machine

/-! ## The updates a load can be -/

theorem setReg8_loads (s : State) (q : Reg8) (v : Byte) :
    (s.setReg8 q v).register q.name = v.toNat ∧ Frame s (s.setReg8 q v) [q.name] [] :=
  ⟨(setReg8_registers s q v q.name).trans (if_pos rfl), frame_setReg8 s q v⟩

theorem setHalf_loads (s : State) (xy : XY) (p : Half) (v : Byte) :
    (s.setHalf xy p v).register (p.name xy) = v.toNat ∧ Frame s (s.setHalf xy p v) [p.name xy] [] :=
  ⟨(setHalf_registers s xy p v (p.name xy)).trans (if_pos rfl), frame_setHalf s xy p v⟩

theorem setPReg_loads (s : State) (xy : XY) (p : PReg) (v : Byte) :
    (s.setPReg xy p v).register (p.name xy) = v.toNat ∧ Frame s (s.setPReg xy p v) [p.name xy] [] :=
  ⟨(setPReg_registers s xy p v (p.name xy)).trans (if_pos rfl), frame_setPReg s xy p v⟩

/-- An operand of `LD p,p'` is the byte in the register of its name (rule R180). -/
theorem register_preg (s : State) (xy : XY) (p : PReg) : s.register (p.name xy) = (s.preg xy p).toNat := by
  cases p
  case xyh => exact register_half s xy .high
  case xyl => exact register_half s xy .low
  all_goals rfl

/-! ## The instructions -/

/-- An 8-bit load is one update: of a register of table R124, of an operand of `LD p,p'`, or of an index half. -/
theorem exec_of_loadsByte {s : State} {i : Instr} {dst : Register} {v : Byte} (h : LoadsByte s i dst v) :
    ∃ t, exec i s = .next t ∧ t.register dst = v.toNat ∧ Frame s t [dst] [] := by
  cases h with
  | reg r r' => exact ⟨_, rfl, setReg8_loads s r _⟩
  | imm r => exact ⟨_, rfl, setReg8_loads s r v⟩
  | atHL r => exact ⟨_, rfl, setReg8_loads s r _⟩
  | atXYd xy r d => cases xy <;> exact ⟨_, rfl, setReg8_loads s r _⟩
  | atBC => exact ⟨_, rfl, setReg8_loads s .a _⟩
  | atDE => exact ⟨_, rfl, setReg8_loads s .a _⟩
  | direct nn => exact ⟨_, rfl, setReg8_loads s .a _⟩
  | halves xy p p' _ hv =>
    obtain rfl : s.preg xy p' = v := BitVec.eq_of_toNat_eq ((register_preg s xy p').symm.trans hv.symm)
    exact ⟨_, rfl, setPReg_loads s xy p _⟩
  | high xy => exact ⟨_, rfl, setHalf_loads s xy .high v⟩
  | low xy => exact ⟨_, rfl, setHalf_loads s xy .low v⟩

/-- `LD A,I` and `LD A,R`: A, and F with P/V from IFF2 (rules R176, R177). -/
theorem frame_loadAFromControl (s : State) (v : Byte) : Frame s (s.loadAFromControl v) [.a, .f] [] :=
  (frame_setA s v).trans (frame_setF _ (controlLoadFlags v s.iff2 s.main.f))

/-- Settles O19: an 8-bit load is one register update; `LD A,I` and `LD A,R` are `loadAFromControl` of the register, `LD I,A`
is `setI` and `LD R,A` is `setR`. -/
theorem byteLoadsSetTheirRegister : Obligations.ByteLoadsSetTheirRegister := by
  refine ⟨fun s i dst v h => exec_of_loadsByte h, fun s => ⟨?_, ?_, ?_⟩⟩
  · have fromControl (v : Byte) := And.intro (flagsAre_controlLoad v s.iff2 s.main.f) (frame_loadAFromControl s v)
    simp only [List.forall_mem_cons]
    exact ⟨⟨_, rfl, rfl, fromControl s.i⟩, ⟨_, rfl, rfl, fromControl s.r⟩, List.forall_mem_nil _⟩
  · exact ⟨_, rfl, rfl, frame_setI s s.main.a⟩
  · exact ⟨_, rfl, rfl, frame_setR s s.main.a⟩

end Sys2Proof.Machine
end

section
/-! PROOFS. Words written out from the encodings of the rules (rules R160 to R394). -/

namespace Sys2Proof

/-- Settles O4: each word is the encoding of its instruction, by evaluation, and decoding inverts encoding. -/
theorem wordsOfTheSpecDecode : Obligations.WordsOfTheSpecDecode :=
  ⟨decode_encode (i := .ldRR .a .b) rfl, decode_encode (i := .ldHLN 0x5A) rfl,
    decode_encode (i := .ldDDMem .bc 0x1234) rfl, decode_encode (i := .exx) rfl, decode_encode (i := .ldir) rfl,
    decode_encode (i := .sbcHL) rfl, decode_encode (i := .orXYH .iy) rfl, decode_encode (i := .im2) rfl,
    decode_encode (i := .addXYPP .ix .xy) rfl, decode_encode (i := .sllR .a) rfl,
    decode_encode (i := .setBXYdR .iy 0xFF 0 .a) rfl, decode_encode (i := .jrCcE .nc 0x05) rfl,
    decode_encode (i := .inFC) rfl, decode_encode (i := .indexAgain .ix (.ldXYNN .iy 0x1234)) rfl⟩

end Sys2Proof
end

section
/-! PROOFS. Loads into a pair, an index register or SP (rules R200 to R204, R208, R209). -/

namespace Sys2Proof.Machine

/-! ## The word a pair holds after an update -/

@[simp] theorem setDD_word (s : State) (dd : PairDD) (w : Word) : (s.setDD dd w).word dd.name = w := by
  cases dd
  case sp => rfl
  all_goals exact joinBytes_hi8_lo8 w

@[simp] theorem setIndex_word (s : State) (xy : XY) (w : Word) : (s.setIndex xy w).word xy.name = w := by
  cases xy <;> rfl

/-! ## The updates a load can be -/

theorem setDD_loads (s : State) (dd : PairDD) (w : Word) :
    (s.setDD dd w).word dd.name = w ∧ Frame s (s.setDD dd w) dd.name.names [] :=
  ⟨setDD_word s dd w, frame_setDD s dd w⟩

theorem setIndex_loads (s : State) (xy : XY) (w : Word) :
    (s.setIndex xy w).word xy.name = w ∧ Frame s (s.setIndex xy w) xy.name.names [] :=
  ⟨setIndex_word s xy w, frame_setIndex s xy w⟩

/-! ## The instructions -/

/-- Settles O21: a 16-bit load is one update, of a pair of column dd or of an index register. -/
theorem wordLoadsSetTheirPair : Obligations.WordLoadsSetTheirPair := by
  intro s i dst w h
  cases h with
  | imm dd => exact ⟨_, rfl, setDD_loads s dd w⟩
  | immXY xy => exact ⟨_, rfl, setIndex_loads s xy w⟩
  | hl nn => exact ⟨_, rfl, setDD_loads s .hl _⟩
  | direct dd nn => exact ⟨_, rfl, setDD_loads s dd _⟩
  | directXY xy nn => exact ⟨_, rfl, setIndex_loads s xy _⟩
  | spHL => exact ⟨_, rfl, setDD_loads s .sp _⟩
  | spXY xy => cases xy <;> exact ⟨_, rfl, setDD_loads s .sp _⟩

end Sys2Proof.Machine
end

section
/-! PROOFS. Block copies and block searches, one iteration each (rules R235 to R242). -/

namespace Sys2Proof.Machine

/-! ## The iteration of a copy -/

/-- A copy is its store, then updates of HL, DE, BC and F (rules R235, R237). -/
theorem frame_blockCopy_of_store (s : State) (d : Word) :
    Frame (s.memWrite s.de (s.memRead s.hl)) (s.blockCopy d) [.h, .l, .d, .e, .b, .c, .f] [] :=
  (((frame_setHL _ (s.hl + d)).trans (frame_setDE _ (s.de + d))).trans (frame_setBC _ (s.bc - 1))).trans (frame_setF _ _)

theorem frame_blockCopy (s : State) (d : Word) :
    Frame s (s.blockCopy d) [.h, .l, .d, .e, .b, .c, .f] [s.word .de] :=
  (frame_memWrite s s.de (s.memRead s.hl)).trans (frame_blockCopy_of_store s d)

theorem stored_blockCopy (s : State) (d : Word) :
    Stored s (s.blockCopy d) (s.word .de) (s.memRead (s.word .hl)) :=
  (stored_memWrite s s.de (s.memRead s.hl)).of_frame (frame_blockCopy_of_store s d)

theorem blockCopy_hl (s : State) (d : Word) : (s.blockCopy d).word .hl = s.word .hl + d := joinBytes_hi8_lo8 _

theorem blockCopy_de (s : State) (d : Word) : (s.blockCopy d).word .de = s.word .de + d := joinBytes_hi8_lo8 _

theorem blockCopy_bc (s : State) (d : Word) : (s.blockCopy d).word .bc = s.word .bc - 1 := joinBytes_hi8_lo8 _

theorem blockCopy_pc (s : State) (d : Word) : (s.blockCopy d).pc = s.pc := by simp [State.blockCopy]

/-! ## The iteration of a search -/

/-- A search updates HL, BC and F (rules R239, R241). -/
theorem frame_blockCompare (s : State) (d : Word) : Frame s (s.blockCompare d) [.h, .l, .b, .c, .f] [] :=
  ((frame_setHL s (s.hl + d)).trans (frame_setBC _ (s.bc - 1))).trans (frame_setF _ _)

theorem blockCompare_hl (s : State) (d : Word) : (s.blockCompare d).word .hl = s.word .hl + d := joinBytes_hi8_lo8 _

theorem blockCompare_bc (s : State) (d : Word) : (s.blockCompare d).word .bc = s.word .bc - 1 := joinBytes_hi8_lo8 _

theorem blockCompare_pc (s : State) (d : Word) : (s.blockCompare d).pc = s.pc := rfl

/-- `CPIR` and `CPDR` go on while BC is left and the byte does not match (rule R240). -/
theorem compareRepeats_iff (s : State) :
    s.compareRepeats = true ↔ s.word .bc - 1 ≠ 0 ∧ s.main.a - s.memRead (s.word .hl) ≠ 0 := by
  rw [State.compareRepeats, Bool.and_eq_true, bne_iff_ne, bne_iff_ne]
  rfl

/-! ## The instructions -/

theorem rewindIf_word (s : State) (again : Bool) (w : WordReg) : (s.rewindIf again).word w = s.word w := by
  cases again <;> cases w <;> rfl

/-- The four copies: the step of HL and DE, and whether the form repeats; a form that does not is one that never rewinds. -/
theorem exec_blockCopy (s : State) :
    ∀ x ∈ [(Instr.ldi, (1 : Word), false), (.ldir, 1, true), (.ldd, -1, false), (.lddr, -1, true)],
      exec x.1 s = .next ((s.blockCopy x.2.1).rewindIf (x.2.2 && s.word .bc - 1 ≠ 0)) := by
  simp only [List.forall_mem_cons]
  exact ⟨rfl, rfl, rfl, rfl, List.forall_mem_nil _⟩

/-- The four searches, as `exec_blockCopy`. -/
theorem exec_blockCompare (s : State) :
    ∀ x ∈ [(Instr.cpi, (1 : Word), false), (.cpir, 1, true), (.cpd, -1, false), (.cpdr, -1, true)],
      exec x.1 s = .next ((s.blockCompare x.2.1).rewindIf (x.2.2 && s.compareRepeats)) := by
  simp only [List.forall_mem_cons]
  exact ⟨rfl, rfl, rfl, rfl, List.forall_mem_nil _⟩

/-- Settles O25: an iteration is `blockCopy`, and the rewind after it changes PC alone. -/
theorem blockCopyMovesOneByte : Obligations.BlockCopyMovesOneByte := by
  intro s x hx v n bc
  have copied := frame_blockCopy s x.2.1
  have rewound := frame_rewindIf (s.blockCopy x.2.1) (x.2.2 && bc ≠ 0)
  refine ⟨_, exec_blockCopy s x hx, (stored_blockCopy s x.2.1).of_frame rewound,
    (rewindIf_word _ _ .hl).trans (blockCopy_hl s x.2.1), (rewindIf_word _ _ .de).trans (blockCopy_de s x.2.1),
    (rewindIf_word _ _ .bc).trans (blockCopy_bc s x.2.1), ?flags, ?pc, copied.trans_of rewound (by simp) (by simp)⟩
  case flags =>
    rw [State.rewindIf_main]
    exact flagsAre_copy v s.main.a bc s.main.f
  case pc => simp only [State.rewindIf_pc, blockCopy_pc, Bool.and_eq_true, decide_eq_true_iff, bc]

/-- Settles O26: an iteration is `blockCompare`, and the rewind after it changes PC alone. -/
theorem blockSearchComparesOneByte : Obligations.BlockSearchComparesOneByte := by
  intro s x hx v res borrow n bc
  have compared := frame_blockCompare s x.2.1
  have rewound := frame_rewindIf (s.blockCompare x.2.1) (x.2.2 && s.compareRepeats)
  refine ⟨_, exec_blockCompare s x hx, (rewindIf_word _ _ .hl).trans (blockCompare_hl s x.2.1),
    (rewindIf_word _ _ .bc).trans (blockCompare_bc s x.2.1), ?flags, ?pc,
    compared.trans_of rewound (by simp) (by simp)⟩
  case flags =>
    rw [State.rewindIf_main]
    exact flagsAre_search s.main.a v bc s.main.f
  case pc => simp only [State.rewindIf_pc, blockCompare_pc, Bool.and_eq_true, compareRepeats_iff, bc, res, v]

end Sys2Proof.Machine
end

section
/-! PROOFS. 8-bit arithmetic and logic (rules R260 to R264, R270 to R279, R302). -/

namespace Sys2Proof.Machine

/-! ## A and a source -/

/-- The instructions on A and a source, each with the shared operation of rules R270 to R277 it is. -/
inductive AluForm : (Source → Instr) → (State → Byte → State) → Prop where
  | add : AluForm addOf State.aluAdd
  | adc : AluForm adcOf State.aluAdc
  | sub : AluForm subOf State.aluSub
  | sbc : AluForm sbcOf State.aluSbc
  | and : AluForm andOf State.aluAnd
  | xor : AluForm xorOf State.aluXor
  | or : AluForm orOf State.aluOr
  | cp : AluForm cpOf State.aluCp

/-- An instruction on A and a source is its operation on the byte the source gives. -/
theorem exec_of_aluForm {form : Source → Instr} {op : State → Byte → State} (h : AluForm form op) (s : State) (x : Source) :
    exec (form x) s = .next (op s (x.byte s)) := by
  cases x with
  | reg r => cases h <;> rfl
  | atHL => cases h <;> rfl
  | imm n => cases h <;> rfl
  | atXYd xy d => cases xy <;> cases h <;> rfl
  | half xy p => cases xy <;> cases p <;> cases h <;> rfl

theorem frame_setAF (s : State) (x : Flagged 8) : Frame s (s.setAF x) [.a, .f] [] :=
  (frame_setA s x.res).trans (frame_setF _ x.flags)

/-- `CP` writes A back as it is (rule R277). -/
theorem frame_aluCp (s : State) (v : Byte) : Frame s (s.aluCp v) [.f] [] := frame_setF s (compare8 s.main.a v).flags

/-- Settles O27: both instructions set A and F from `add8`, with their carry in. -/
theorem additionsOfBytes : Obligations.AdditionsOfBytes := by
  intro s x
  simp only [List.forall_mem_cons]
  exact ⟨⟨_, exec_of_aluForm .add s x, rfl, flagsAre_add8 _ _ false, frame_setAF s _⟩,
    ⟨_, exec_of_aluForm .adc s x, rfl, flagsAre_add8 _ _ (flagC s.main.f), frame_setAF s _⟩, List.forall_mem_nil _⟩

/-- Settles O28: every form sets A and F from `sub8`, with its operands and its carry in; `NEG` subtracts A from zero. -/
theorem subtractionsOfBytes : Obligations.SubtractionsOfBytes := by
  intro s x y
  simp only [List.forall_mem_cons]
  exact ⟨⟨_, exec_of_aluForm .sub s x, rfl, flagsAre_sub8 _ _ false, frame_setAF s _⟩,
    ⟨_, exec_of_aluForm .sbc s x, rfl, flagsAre_sub8 _ _ (flagC s.main.f), frame_setAF s _⟩,
    ⟨_, rfl, rfl, flagsAre_sub8 0 s.main.a false, frame_setAF s _⟩,
    ⟨_, rfl, rfl, flagsAre_sub8 0 s.main.a false, frame_setAF s _⟩, List.forall_mem_nil _⟩

/-- Settles O29: the three instructions set A and F from `and8`, `xor8` and `or8`. -/
theorem logicOfBytes : Obligations.LogicOfBytes := by
  intro s x
  simp only [List.forall_mem_cons, Bool.false_eq_true]
  exact ⟨⟨_, exec_of_aluForm .and s x, rfl, flagsAre_and8 s.main.a (x.byte s), frame_setAF s _⟩,
    ⟨_, exec_of_aluForm .xor s x, rfl, flagsAre_xor8 s.main.a (x.byte s), frame_setAF s _⟩,
    ⟨_, exec_of_aluForm .or s x, rfl, flagsAre_or8 s.main.a (x.byte s), frame_setAF s _⟩, List.forall_mem_nil _⟩

/-- Settles O30: `CP` sets F from `compare8`. -/
theorem comparisonOfBytes : Obligations.ComparisonOfBytes := fun s x =>
  ⟨_, exec_of_aluForm .cp s x, flagsAre_compare8 s.main.a (x.byte s), frame_aluCp s _⟩

/-! ## Targets -/

/-- A write to a target, by the model's updates. -/
def State.setTarget (s : State) : Target → Byte → State
  | .reg r => s.setReg8 r
  | .atHL => s.memWrite s.hl
  | .atXYd xy d => s.memWrite (s.ea xy d)
  | .half xy p => s.setHalf xy p

/-- `INC` and `DEC` store the result of `inc8` and `dec8` in their target and set F. -/
theorem exec_incOf_decOf (s : State) (x : Target) :
    exec (incOf x) s = .next ((inc8 s.main.f (x.source.byte s)).into (s.setTarget x)) ∧
      exec (decOf x) s = .next ((dec8 s.main.f (x.source.byte s)).into (s.setTarget x)) := by
  cases x with
  | reg r => exact ⟨rfl, rfl⟩
  | atHL => exact ⟨rfl, rfl⟩
  | atXYd xy d => cases xy <;> exact ⟨rfl, rfl⟩
  | half xy p => cases xy <;> cases p <;> exact ⟨rfl, rfl⟩

/-- The address of an `(XY+d)` operand (rule R127). -/
theorem ea_eq (s : State) (xy : XY) (d : Byte) : s.ea xy d = s.word xy.name + d.signExtend 16 := by
  cases xy <;> rfl

theorem frame_setTarget (s : State) (x : Target) (v : Byte) : Frame s (s.setTarget x v) x.regs (x.stored s) := by
  cases x with
  | reg r => exact frame_setReg8 s r v
  | atHL => exact frame_memWrite s s.hl v
  | atXYd xy d => rw [Target.stored, ← ea_eq]; exact frame_memWrite s (s.ea xy d) v
  | half xy p => exact frame_setHalf s xy p v

theorem wrote_setTarget (s : State) (x : Target) (v : Byte) : x.Wrote s (s.setTarget x v) v := by
  cases x with
  | reg r => exact ⟨List.forall_mem_singleton.2 (setReg8_loads s r v).1, List.forall_mem_nil _⟩
  | atHL => exact ⟨List.forall_mem_nil _, List.forall_mem_singleton.2 (stored_memWrite s s.hl v)⟩
  | atXYd xy d =>
    refine ⟨List.forall_mem_nil _, List.forall_mem_singleton.2 ?_⟩
    rw [← ea_eq]; exact stored_memWrite s (s.ea xy d) v
  | half xy p => exact ⟨List.forall_mem_singleton.2 (setHalf_loads s xy p v).1, List.forall_mem_nil _⟩

theorem Target.f_not_mem_regs (x : Target) : .f ∉ x.regs := by
  cases x with
  | reg r => cases r <;> decide
  | atHL => exact List.not_mem_nil
  | atXYd xy d => exact List.not_mem_nil
  | half xy p => cases xy <;> cases p <;> decide

/-- What was written to a target outlives an update of F. -/
theorem Target.Wrote.setF {s t : State} {x : Target} {v : Byte} (h : x.Wrote s t v) (f : Byte) : x.Wrote s (t.setF f) v := by
  obtain ⟨regs, stored⟩ := h
  refine ⟨fun q hq => ?_, fun a ha => (stored a ha).of_frame (frame_setF t f)⟩
  have hf : q ∉ [Register.f] := by
    rw [List.mem_singleton]; rintro rfl; exact x.f_not_mem_regs hq
  exact ((frame_setF t f).registers q hf).trans (regs q hq)

theorem Target.wrote_into (x : Target) (s : State) (r : Flagged 8) : x.Wrote s (r.into (s.setTarget x)) r.res :=
  (wrote_setTarget s x r.res).setF r.flags

theorem Target.frame_into (x : Target) (s : State) (r : Flagged 8) :
    Frame s (r.into (s.setTarget x)) (.f :: x.regs) (x.stored s) :=
  (frame_setTarget s x r.res).trans_of (frame_setF _ r.flags) (by simp) (by simp)

/-- Settles O31: a write of the result to the target, then F. -/
theorem incrementAndDecrementOfBytes : Obligations.IncrementAndDecrementOfBytes := by
  intro s x v
  obtain ⟨inc, dec⟩ := exec_incOf_decOf s x
  exact ⟨⟨_, inc, x.wrote_into s _, flagsAre_inc8 s.main.f v, x.frame_into s _⟩,
    ⟨_, dec, x.wrote_into s _, flagsAre_dec8 s.main.f v, x.frame_into s _⟩⟩

end Sys2Proof.Machine
end

section
/-! PROOFS. General-purpose arithmetic and CPU control (rules R300, R301, R303 to R309, R311). -/

namespace Sys2Proof.Machine

/-! ## `DAA` (rule R300) -/

/-- The two halves of a correction have no bit in common: their `or` is their sum. -/
theorem correction_eq (low high : Bool) :
    maskIf low 0x06 ||| maskIf high 0x60 = BitVec.ofNat 8 ((if low then 6 else 0) + if high then 0x60 else 0) := by
  cases low <;> cases high <;> rfl

theorem sub_ofNat (a : Byte) (n : Nat) : a - BitVec.ofNat 8 n = BitVec.ofInt 8 ((a.toNat : Int) - (n : Int)) := by
  rw [eq_comm, BitVec.eq_sub_iff_add_eq, ← BitVec.ofInt_natCast, ← BitVec.ofInt_add, Int.sub_add_cancel,
    BitVec.ofInt_natCast, BitVec.ofNat_toNat, BitVec.setWidth_eq]

theorem add_ofNat (a : Byte) (n : Nat) : a + BitVec.ofNat 8 n = BitVec.ofNat 8 (a.toNat + n) := by
  rw [BitVec.ofNat_add, BitVec.ofNat_toNat, BitVec.setWidth_eq]

theorem decimalAdjust_res (a f : Byte) :
    let low := flagH f = true ∨ a.toNat % 16 > 9
    let high := flagC f = true ∨ a.toNat > 0x99
    let corr : Nat := (if low then 6 else 0) + (if high then 0x60 else 0)
    (decimalAdjust a f).res =
      if flagN f = true then BitVec.ofInt 8 ((a.toNat : Int) - (corr : Int)) else BitVec.ofNat 8 (a.toNat + corr) := by
  intro low high corr
  have hcorr : maskIf (flagH f || decide ((a &&& 0x0F).toNat > 9)) 0x06 |||
      maskIf (flagC f || decide (a.toNat > 0x99)) 0x60 = BitVec.ofNat 8 corr := by
    simp only [correction_eq, Bool.or_eq_true, decide_eq_true_iff, toNat_and_0x0F, corr, low, high]
  rw [← sub_ofNat, ← add_ofNat, ← hcorr]
  rfl

/-- Settles O32: `DAA` sets A and F from `decimalAdjust`. -/
theorem decimalAdjustFollowsTheAlgorithm : Obligations.DecimalAdjustFollowsTheAlgorithm := by
  intro s a low high corr res
  have hres : (decimalAdjust s.main.a s.main.f).res = res := decimalAdjust_res s.main.a s.main.f
  exact ⟨_, rfl, hres, hres ▸ flagsAre_decimalAdjust s.main.a s.main.f, frame_setAF s _⟩

/-! ## `CPL`, `CCF`, `SCF` (rules R301, R303, R304) -/

/-- Settles O33: `CPL` sets A and F from `complement`; `CCF` and `SCF` set F alone. -/
theorem complementAndCarryFlag : Obligations.ComplementAndCarryFlag := by
  intro s f a
  have hres : (complement a f).res = ~~~a := BitVec.xor_allOnes
  exact ⟨⟨_, rfl, hres, flagsAre_complement a f, frame_setAF s _⟩, ⟨_, rfl, flagsAre_ccf a f, frame_setF s _⟩,
    ⟨_, rfl, flagsAre_scf a f, frame_setF s _⟩⟩

/-! ## The latches (rules R305 to R309, R311) -/

/-- Settles O34: each instruction is the update of the latches its rule names. -/
theorem controlInstructionsSetTheirLatch : Obligations.ControlInstructionsSetTheirLatch := by
  intro s y op
  simp only [List.forall_mem_cons]
  exact ⟨⟨_, rfl, .refl _⟩, ⟨_, rfl, .refl _⟩, ⟨_, rfl, .refl _⟩, ⟨_, rfl, .refl _⟩, ⟨_, rfl, .refl _⟩, ⟨_, rfl, .refl _⟩,
    ⟨_, rfl, .refl _⟩, ⟨_, rfl, .refl _⟩, ⟨_, rfl, .refl _⟩, ⟨_, rfl, .refl _⟩, ⟨_, rfl, .refl _⟩, List.forall_mem_nil _⟩

end Sys2Proof.Machine
end

section
/-! PROOFS. The halted slot, and the deferral of `EI` (rules R306, R308, R534, R552). -/

namespace Sys2Proof.Machine

/-! ## The kind of the next slot (rule R539) -/

theorem nextSlot_eq_int_iff {s : State} : s.nextSlot = .int ↔
    s.nmiPending = false ∧ s.intPending = true ∧ s.iff1 = true ∧ s.eiDelay = false := by
  rw [State.nextSlot]
  cases s.nmiPending with
  | true => simp
  | false => cases s.halt <;> simp [and_assoc]

theorem nextSlot_of_halt {s : State} (hn : s.nmiPending = false)
    (hi : s.intPending = true → s.iff1 = false ∨ s.eiDelay = true) (hh : s.halt = true) : s.nextSlot = .haltedNop := by
  have refused : (s.intPending && s.iff1 && !s.eiDelay) = false := by simpa [Classical.or_iff_not_imp_left] using hi
  simp [State.nextSlot, hn, refused, hh]

theorem step_of_haltedNop {s : State} (h : s.nextSlot = .haltedNop) : step s = .next (s.haltedSlot.addT 4) := by
  rw [step, State.perform, State.slotCost, h]

/-! ## Only `EI` sets the deferral (rule R308) -/

@[simp] theorem State.portOut_eiDelay (s : State) (lo hi v : Byte) : (s.portOut lo hi v).eiDelay = s.eiDelay := by
  unfold portOut
  dsimp only
  split <;> split <;> simp

open State in
theorem run_keeps_eiDelay {i : Instr} {s t : State} (h : run i s = .next t) (hi : i.core ≠ .ei) : t.eiDelay = s.eiDelay := by
  induction i with
  | indexAgain xy i ih => exact ih h hi
  | edAfterIndex xy i ih => exact ih h hi
  | indexNoEffect xy i ih => exact ih h hi
  | prefixCB | prefixDD | prefixED | prefixFD | prefixCBAfterIndex => cases h
  | ei => exact absurd rfl hi
  | _ =>
    cases h
    simp [apply_ite State.eiDelay, Flagged.into, setAF, aluAdd, aluAdc, aluSub, aluSbc, aluAnd, aluXor, aluOr, aluCp,
      loadAFromControl, rotateA, shiftReg, shiftMem, shiftMemCopy, writeMemCopy, bitTest, returnFromInterrupt, portIn,
      rotateDigitLeft, rotateDigitRight, blockCopy, blockCompare, blockIn, blockOut]

/-- An `EI` behind index prefixes is `EI`. -/
theorem run_of_core_ei {i : Instr} (hi : i.core = .ei) (s : State) : run i s = execEi s := by
  induction i with
  | indexAgain xy i ih => exact ih hi
  | edAfterIndex xy i ih => exact ih hi
  | indexNoEffect xy i ih => exact ih hi
  | ei => rfl
  | _ => cases hi

theorem exec_eiDelay_iff {i : Instr} {s t : State} (hi : i.complete = true) (hs : s.eiDelay = false)
    (h : exec i s = .next t) : t.eiDelay = true ↔ i.core = .ei := by
  rw [exec_eq_run hi] at h
  by_cases hc : i.core = .ei
  · cases (run_of_core_ei hc s).symm.trans h
    exact iff_of_true rfl hc
  · rw [run_keeps_eiDelay h hc, hs]
    exact iff_of_false Bool.false_ne_true hc

/-! ## The two slots -/

/-- Settles O53: a halted slot counts R and clears the deferral; an instruction slot clears it before it executes, and a
deferral refuses the request. -/
theorem haltedSlotAndEiDeferral : Obligations.HaltedSlotAndEiDeferral := by
  refine ⟨fun s hn hi hh => ?_, fun s t i hs hl h => ?_⟩
  · exact ⟨_, step_of_haltedNop (nextSlot_of_halt hn hi hh), incR_countR s 1,
      frame_setR { s with eiDelay := false, t := s.t + 4 } _⟩
  · have hi := lookup_complete hl
    obtain ⟨u, he⟩ := exec_completes hi (s.afterFetch i)
    cases (step_of_lookup hs hl he).symm.trans h
    have deferral := exec_eiDelay_iff hi rfl he
    refine ⟨deferral, fun hc hint => ?_⟩
    obtain ⟨-, -, -, undeferred⟩ := nextSlot_eq_int_iff.1 hint
    exact absurd (deferral.2 hc) (by simpa using undeferred)

end Sys2Proof.Machine
end

section
/-! PROOFS. 16-bit arithmetic (rules R320 to R330). -/

namespace Sys2Proof.Machine

/-! ## The operands, and a result stored with its flags -/

/-- A pair of column ss is the word of its name (rule R125). -/
theorem pairDD_eq_word (s : State) (ss : PairDD) : s.pairDD ss = s.word ss.name := by
  cases ss <;> rfl

theorem indexReg_eq_word (s : State) (xy : XY) : s.indexReg xy = s.word xy.name := by
  cases xy <;> rfl

/-- A pair of column pp is the word of its name; its code 10 is the index register itself (rule R125). -/
theorem pairPP_eq_word (s : State) (xy : XY) (pp : PairPP) : s.pairPP xy pp = s.word (pp.name xy) := by
  cases pp
  case xy => exact indexReg_eq_word s xy
  all_goals rfl

@[simp] theorem setF_word (s : State) (f : Byte) (w : WordReg) : (s.setF f).word w = s.word w := by
  cases w <;> rfl

/-- The update of F after a result is stored leaves the result in place. -/
theorem Flagged.into_loads {s : State} {put : Word → State} {w : WordReg}
    (h : ∀ v, (put v).word w = v ∧ Frame s (put v) w.names []) (r : Flagged 16) :
    (r.into put).word w = r.res ∧ Frame s (r.into put) (.f :: w.names) [] := by
  obtain ⟨word, frame⟩ := h r.res
  exact ⟨(setF_word _ _ _).trans word, frame.trans_of (frame_setF _ r.flags) (by simp) (by simp)⟩

/-! ## `ADD`, `ADC` and `SBC` (rules R323 to R326) -/

/-- Settles O35: both instructions store the result of `add16` in their first operand and set F. -/
theorem additionsOfWords : Obligations.AdditionsOfWords := by
  intro s ss xy pp
  simp only [List.forall_mem_cons, ← pairDD_eq_word s, ← pairPP_eq_word s, ← indexReg_eq_word s]
  obtain ⟨hlWord, hlFrame⟩ := Flagged.into_loads (setDD_loads s .hl) (add16 s.main.f s.hl (s.pairDD ss))
  obtain ⟨xyWord, xyFrame⟩ := Flagged.into_loads (setIndex_loads s xy) (add16 s.main.f (s.indexReg xy) (s.pairPP xy pp))
  exact ⟨⟨_, rfl, hlWord, flagsAre_add16 s.main.f s.hl (s.pairDD ss), hlFrame⟩,
    ⟨_, rfl, xyWord, flagsAre_add16 s.main.f (s.indexReg xy) (s.pairPP xy pp), xyFrame⟩, List.forall_mem_nil _⟩

/-- Settles O36: the results of `adc16` and `sbc16`, with the carry in, go to HL and F. -/
theorem carryArithmeticOfWords : Obligations.CarryArithmeticOfWords := by
  intro s ss
  simp only [← pairDD_eq_word s]
  obtain ⟨sumWord, sumFrame⟩ := Flagged.into_loads (setDD_loads s .hl) (adc16 s.hl (s.pairDD ss) s.carry)
  obtain ⟨diffWord, diffFrame⟩ := Flagged.into_loads (setDD_loads s .hl) (sbc16 s.hl (s.pairDD ss) s.carry)
  exact ⟨⟨_, rfl, sumWord, flagsAre_adc16 s.hl (s.pairDD ss) s.carry, sumFrame⟩,
    ⟨_, rfl, diffWord, flagsAre_sbc16 s.hl (s.pairDD ss) s.carry, diffFrame⟩⟩

/-! ## `INC` and `DEC` (rules R327 to R330) -/

/-- Settles O37: each is one update of its register, F untouched; a decrement adds -1. -/
theorem incrementAndDecrementOfWords : Obligations.IncrementAndDecrementOfWords := by
  intro s ss xy
  simp only [List.forall_mem_cons, ← pairDD_eq_word s, ← indexReg_eq_word s, ← BitVec.sub_eq_add_neg]
  exact ⟨⟨_, rfl, setDD_loads s ss _⟩, ⟨_, rfl, setIndex_loads s xy _⟩, ⟨_, rfl, setDD_loads s ss _⟩,
    ⟨_, rfl, setIndex_loads s xy _⟩, List.forall_mem_nil _⟩

end Sys2Proof.Machine
end

section
/-! PROOFS. Rotates, shifts, and the test, reset and set of a bit (rules R340 to R353, R360, R361, R370 to R379). -/

namespace Sys2Proof.Machine

/-! ## The accumulator (rules R340 to R343) -/

/-- An accumulator rotate is `rotateAcc`, whose result is that of the rule. -/
theorem rotateA_rotates (s : State) (o : ShiftOp) :
    let res := BitVec.ofNat 8 (shiftNat s.main.a.toNat (flagC s.main.f).toNat o)
    (s.rotateA o).main.a = res ∧
      FlagsAre (s.rotateA o).main.f (flagS s.main.f = true) (flagZ s.main.f = true) (res.getLsbD 5 = true) False
        (res.getLsbD 3 = true) (flagPV s.main.f = true) False (shiftOut s.main.a.toNat o = 1) ∧
      Frame s (s.rotateA o) [.a, .f] [] := by
  intro res
  have hres : (rotateAcc o s.main.f s.main.a).res = res := shift_result o s.main.a (flagC s.main.f)
  exact ⟨hres, hres ▸ flagsAre_rotateAcc o s.main.f s.main.a, frame_setAF s _⟩

/-- Settles O38: each of the four is `rotateA` of its operation. -/
theorem accumulatorRotates : Obligations.AccumulatorRotates := by
  intro s
  simp only [List.forall_mem_cons]
  exact ⟨⟨_, rfl, rotateA_rotates s .rlc⟩, ⟨_, rfl, rotateA_rotates s .rl⟩, ⟨_, rfl, rotateA_rotates s .rrc⟩,
    ⟨_, rfl, rotateA_rotates s .rr⟩, List.forall_mem_nil _⟩

/-! ## The operands of the CB tables -/

/-- A write to an operand and to its copy, by the model's updates. -/
def State.setBitTarget (s : State) : BitTarget → Byte → State
  | .reg r => s.setTarget (.reg r)
  | .atHL => s.setTarget .atHL
  | .atXYd xy d => s.setTarget (.atXYd xy d)
  | .atXYdCopy xy d r => s.writeMemCopy (s.ea xy d) r

theorem frame_setBitTarget (s : State) (x : BitTarget) (v : Byte) :
    Frame s (s.setBitTarget x v) x.regs (x.stored s) := by
  cases x with
  | reg r => exact frame_setTarget s (.reg r) v
  | atHL => exact frame_setTarget s .atHL v
  | atXYd xy d => exact frame_setTarget s (.atXYd xy d) v
  | atXYdCopy xy d r => exact (frame_setTarget s (.atXYd xy d) v).trans (frame_setReg8 _ r v)

/-- The copy is written after the store, which outlives it (rule R352). -/
theorem wrote_setBitTarget (s : State) (x : BitTarget) (v : Byte) : x.Wrote s (s.setBitTarget x v) v := by
  cases x with
  | reg r => exact wrote_setTarget s (.reg r) v
  | atHL => exact wrote_setTarget s .atHL v
  | atXYd xy d => exact wrote_setTarget s (.atXYd xy d) v
  | atXYdCopy xy d r =>
    obtain ⟨-, stored⟩ := wrote_setTarget s (.atXYd xy d) v
    exact ⟨List.forall_mem_singleton.2 (setReg8_loads _ r v).1,
      fun a ha => (stored a ha).of_frame (frame_setReg8 _ r v)⟩

theorem BitTarget.f_not_mem_regs (x : BitTarget) : .f ∉ x.regs := by
  cases x with
  | reg r => exact (Target.reg r).f_not_mem_regs
  | atHL => exact List.not_mem_nil
  | atXYd xy d => exact List.not_mem_nil
  | atXYdCopy xy d r => exact (Target.reg r).f_not_mem_regs

theorem BitTarget.wrote_into (x : BitTarget) (s : State) (r : Flagged 8) :
    x.Wrote s (r.into (s.setBitTarget x)) r.res := by
  obtain ⟨regs, stored⟩ := wrote_setBitTarget s x r.res
  have hf := frame_setF (s.setBitTarget x r.res) r.flags
  refine ⟨fun q hq => (hf.registers q ?_).trans (regs q hq), fun a ha => (stored a ha).of_frame hf⟩
  rw [List.mem_singleton]; rintro rfl; exact x.f_not_mem_regs hq

theorem BitTarget.frame_into (x : BitTarget) (s : State) (r : Flagged 8) :
    Frame s (r.into (s.setBitTarget x)) (.f :: x.regs) (x.stored s) :=
  (frame_setBitTarget s x r.res).trans_of (frame_setF _ r.flags) (by simp) (by simp)

/-! ## Rotates and shifts (rules R344 to R353) -/

theorem exec_shiftOf (s : State) (o : ShiftOp) (x : BitTarget) :
    exec (shiftOf o x) s = .next ((shift8 o s.main.f (x.byte s)).into (s.setBitTarget x)) := by
  cases x with
  | reg r => cases o <;> rfl
  | atHL => cases o <;> rfl
  | atXYd xy d => cases xy <;> cases o <;> rfl
  | atXYdCopy xy d r => cases xy <;> cases o <;> rfl

/-- Settles O39: every form writes the result of `shift8` to its operand and sets F. -/
theorem rotatesAndShifts : Obligations.RotatesAndShifts := by
  intro s o x v res
  have hres : (shift8 o s.main.f (x.byte s)).res = res := shift_result o (x.byte s) (flagC s.main.f)
  exact ⟨_, exec_shiftOf s o x, hres ▸ x.wrote_into s _, hres ▸ flagsAre_shift8 o s.main.f (x.byte s), x.frame_into s _⟩

/-! ## Digits (rules R360, R361) -/

theorem and_0xF0 (v : Byte) : v &&& 0xF0 = BitVec.ofNat 8 (v.toNat / 16 * 16) := by revert v; decide

theorem and_0x0F (v : Byte) : v &&& 0x0F = BitVec.ofNat 8 (v.toNat % 16) := by revert v; decide

theorem shiftLeft_4 (v : Byte) : v <<< 4 = BitVec.ofNat 8 (v.toNat % 16 * 16) := by revert v; decide

theorem shiftRight_4 (v : Byte) : v >>> 4 = BitVec.ofNat 8 (v.toNat / 16) := by revert v; decide

/-- Two digits have no bit in common: their `or` is their sum. -/
theorem or_digits (h : Nat) {l : Nat} (hl : l < 16) :
    BitVec.ofNat 8 (h * 16) ||| BitVec.ofNat 8 l = BitVec.ofNat 8 (h * 16 + l) := by
  rw [← BitVec.ofNat_or, ← Nat.shiftLeft_eq h 4, Nat.shiftLeft_add_eq_or_of_lt hl]

/-- A digit rotate that leaves `a` in A and stores `m` at HL. -/
def State.setDigits (s : State) (a m : Byte) : State := ((s.memWrite s.hl m).setA a).setF (inFlags a s.main.f)

theorem exec_rld (s : State) :
    let a := s.main.a.toNat
    let m := (s.memRead s.hl).toNat
    exec .rld s =
      .next (s.setDigits (BitVec.ofNat 8 (a / 16 * 16 + m / 16)) (BitVec.ofNat 8 (m % 16 * 16 + a % 16))) := by
  intro a m
  have hm : m / 16 < 16 := Nat.div_lt_of_lt_mul (s.memRead s.hl).isLt
  rw [← or_digits _ hm, ← or_digits _ (Nat.mod_lt a (by decide)), ← and_0xF0, ← shiftRight_4, ← shiftLeft_4, ← and_0x0F]
  rfl

theorem exec_rrd (s : State) :
    let a := s.main.a.toNat
    let m := (s.memRead s.hl).toNat
    exec .rrd s =
      .next (s.setDigits (BitVec.ofNat 8 (a / 16 * 16 + m % 16)) (BitVec.ofNat 8 (a % 16 * 16 + m / 16))) := by
  intro a m
  have hm : m / 16 < 16 := Nat.div_lt_of_lt_mul (s.memRead s.hl).isLt
  rw [← or_digits _ hm, ← or_digits _ (Nat.mod_lt m (by decide)), ← and_0xF0, ← shiftRight_4, ← shiftLeft_4, ← and_0x0F]
  rfl

theorem setDigits_sets (s : State) (a m : Byte) :
    (s.setDigits a m).main.a = a ∧ Stored s (s.setDigits a m) s.hl m ∧
      FlagsAre (s.setDigits a m).main.f (a.getLsbD 7 = true) (a = 0) (a.getLsbD 5 = true) False (a.getLsbD 3 = true)
        (EvenOnes a) False (flagC s.main.f = true) ∧
      Frame s (s.setDigits a m) [.a, .f] [s.hl] := by
  have registers : Frame (s.memWrite s.hl m) (s.setDigits a m) [.a, .f] [] := (frame_setA _ a).trans (frame_setF _ _)
  exact ⟨rfl, (stored_memWrite s s.hl m).of_frame registers, flagsAre_in a s.main.f,
    (frame_memWrite s s.hl m).trans registers⟩

/-- Settles O40: each puts one digit of HL's byte in A, and A's low digit in the byte. -/
theorem digitRotates : Obligations.DigitRotates := by
  intro s a m
  simp only [List.forall_mem_cons]
  exact ⟨⟨_, exec_rld s, setDigits_sets s _ _⟩,
    ⟨_, exec_rrd s, setDigits_sets s _ _⟩, List.forall_mem_nil _⟩

/-! ## `BIT` (rules R370 to R373) -/

theorem bitTest_tests (s : State) (b : Bits3) (v xy : Byte) :
    FlagsAre (s.bitTest b v xy).main.f (b = 7 ∧ v.getLsbD b.toNat = true) (v.getLsbD b.toNat = false)
        (xy.getLsbD 5 = true) True (xy.getLsbD 3 = true) (v.getLsbD b.toNat = false) False (flagC s.main.f = true) ∧
      Frame s (s.bitTest b v xy) [.f] [] :=
  ⟨flagsAre_bit b v xy s.main.f, frame_setF s _⟩

/-- Settles O41: each form is `bitTest` of its byte and of the byte Y and X come from. -/
theorem bitTests : Obligations.BitTests := by
  intro s b z r xy d
  simp only [List.forall_mem_cons, ← ea_eq]
  exact ⟨⟨_, rfl, bitTest_tests s b _ _⟩, ⟨_, rfl, bitTest_tests s b _ _⟩, ⟨_, rfl, bitTest_tests s b _ _⟩,
    ⟨_, rfl, bitTest_tests s b _ _⟩, List.forall_mem_nil _⟩

/-! ## `RES` and `SET` (rules R352, R376, R379) -/

theorem exec_resOf_setOf (s : State) (b : Bits3) (x : BitTarget) :
    exec (resOf b x) s = .next (s.setBitTarget x (resetBit b (x.byte s))) ∧
      exec (setOf b x) s = .next (s.setBitTarget x (setBit b (x.byte s))) := by
  cases x with
  | reg r => exact ⟨rfl, rfl⟩
  | atHL => exact ⟨rfl, rfl⟩
  | atXYd xy d => cases xy <;> exact ⟨rfl, rfl⟩
  | atXYdCopy xy d r => cases xy <;> exact ⟨rfl, rfl⟩

theorem getLsbD_one_shiftLeft {k : Nat} (hk : k < 8) (n : Nat) : ((1 : Byte) <<< n).getLsbD k = decide (k = n) := by
  rw [show (1 : Byte) <<< n = BitVec.twoPow 8 n from (BitVec.twoPow_eq 8 n).symm, BitVec.getLsbD_twoPow]
  by_cases h : n = k
  · simp [h, hk]
  · simp [h, Ne.symm h]

theorem getLsbD_resetBit (b : Bits3) (v : Byte) {k : Nat} (hk : k < 8) :
    (resetBit b v).getLsbD k = if k = b.toNat then false else v.getLsbD k := by
  rw [resetBit, BitVec.getLsbD_and, BitVec.getLsbD_not, getLsbD_one_shiftLeft hk]
  by_cases h : k = b.toNat <;> simp [h, hk]

theorem getLsbD_setBit (b : Bits3) (v : Byte) {k : Nat} (hk : k < 8) :
    (setBit b v).getLsbD k = if k = b.toNat then true else v.getLsbD k := by
  rw [setBit, BitVec.getLsbD_or, getLsbD_one_shiftLeft hk]
  by_cases h : k = b.toNat <;> simp [h]

/-- Settles O42: every form writes `resetBit` or `setBit` of the byte to its operand, F untouched. -/
theorem bitResetAndSet : Obligations.BitResetAndSet := by
  intro s b x
  obtain ⟨reset, set⟩ := exec_resOf_setOf s b x
  simp only [List.forall_mem_cons]
  exact ⟨⟨_, _, reset, wrote_setBitTarget s x _, fun _ => getLsbD_resetBit b (x.byte s), frame_setBitTarget s x _⟩,
    ⟨_, _, set, wrote_setBitTarget s x _, fun _ => getLsbD_setBit b (x.byte s), frame_setBitTarget s x _⟩,
    List.forall_mem_nil _⟩

end Sys2Proof.Machine
end

section
/-! PROOFS. The run-length code loses nothing (rules R480 to R482). -/

namespace Sys2Proof.Machine

/-! ## `Decompress`, one element at a time (rule R480) -/

theorem decompress_run {max : Nat} (h : max ≠ 0) (count v : Byte) (rest : List Byte) :
    decompress (0xED :: 0xED :: count :: v :: rest) max =
      List.replicate (min count.toNat max) v ++ decompress rest (max - min count.toNat max) := by
  rw [decompress, if_neg h, if_neg (by simp), if_pos (by simp)]

/-- A byte that begins neither a run nor an end marker stands for itself. -/
theorem decompress_literal {b : Byte} {rest : List Byte} (hend : b = 0 → rest.take 3 ≠ [0xED, 0xED, 0])
    (hrun : b = 0xED → rest.head? ≠ some 0xED) (max : Nat) :
    decompress (b :: rest) (max + 1) = b :: decompress rest max := by
  rw [decompress.eq_def]
  dsimp only
  rw [if_neg (Nat.succ_ne_zero max), if_neg fun h => hend h.1 h.2, if_neg fun h => hrun h.1 h.2, Nat.add_sub_cancel]

/-! ## Runs of the source (rule R481) -/

theorem runLength_le_cap (b : Byte) (cap : Nat) (src : List Byte) : runLength b cap src ≤ cap := by
  induction cap generalizing src with
  | zero => simp [runLength]
  | succ cap ih =>
    cases src with
    | nil => simp [runLength]
    | cons x src =>
      rw [runLength]
      split
      · exact Nat.succ_le_succ (ih src)
      · exact Nat.zero_le _

/-- The bytes a run counts are at the front of the source. -/
theorem replicate_runLength_append_drop (b : Byte) (cap : Nat) (src : List Byte) :
    List.replicate (runLength b cap src) b ++ src.drop (runLength b cap src) = src := by
  induction cap generalizing src with
  | zero => simp [runLength]
  | succ cap ih =>
    cases src with
    | nil => simp [runLength]
    | cons x src =>
      rw [runLength]
      split
      · next hx => rw [hx, List.replicate_succ, List.drop_succ_cons, List.cons_append, ih]
      · rfl

theorem runLength_le_length (b : Byte) (cap : Nat) (src : List Byte) : runLength b cap src ≤ src.length := by
  have h := congrArg List.length (replicate_runLength_append_drop b cap src)
  rw [List.length_append, List.length_replicate] at h
  omega

/-- A second equal byte makes a run of two. -/
theorem two_le_runLength {b : Byte} {rest : List Byte} (h : rest.head? = some b) :
    2 ≤ runLength b 255 (b :: rest) := by
  obtain ⟨rest, rfl⟩ := List.head?_eq_some_iff.1 h
  simp [runLength]

/-- What `Compress` makes a run of: five equal bytes, or two bytes 0xED. -/
abbrev Packs (b : Byte) (rest : List Byte) : Prop :=
  5 ≤ runLength b 255 (b :: rest) ∨ (b = 0xED ∧ 2 ≤ runLength b 255 (b :: rest))

/-- The length of a run, as its byte in the code: at least 2. -/
theorem Packs.count {b : Byte} {rest : List Byte} (h : Packs b rest) :
    2 ≤ runLength b 255 (b :: rest) ∧
      (BitVec.ofNat 8 (runLength b 255 (b :: rest))).toNat = runLength b 255 (b :: rest) := by
  have cap := runLength_le_cap b 255 (b :: rest)
  refine ⟨by omega, ?_⟩
  rw [BitVec.toNat_ofNat, Nat.mod_eq_of_lt (by omega)]

/-! ## `Compress`, one element at a time (rule R481) -/

theorem compressFuel_nil (n : Nat) : compressFuel n [] = [] := by cases n <;> rfl

/-- `code` is what `Compress` makes of `src`: runs, bytes for themselves, and 0xED alone with the byte after it, if any. -/
inductive Codes : (src code : List Byte) → Prop where
  | nil : Codes [] []
  | run {b : Byte} {rest code : List Byte} (packs : Packs b rest)
    (h : Codes ((b :: rest).drop (runLength b 255 (b :: rest))) code) :
    Codes (b :: rest) (0xED :: 0xED :: BitVec.ofNat 8 (runLength b 255 (b :: rest)) :: b :: code)
  | literal {b : Byte} {rest code : List Byte} (hb : b ≠ 0xED) (h : Codes rest code) : Codes (b :: rest) (b :: code)
  | edLast : Codes [0xED] [0xED]
  | ed {x : Byte} {rest code : List Byte} (hx : x ≠ 0xED) (h : Codes rest code) :
    Codes (0xED :: x :: rest) (0xED :: x :: code)

theorem codes_compressFuel (n : Nat) (src : List Byte) (h : src.length ≤ n) : Codes src (compressFuel n src) := by
  induction n generalizing src with
  | zero =>
    obtain rfl := List.length_eq_zero_iff.1 (Nat.le_zero.1 h)
    exact .nil
  | succ n ih =>
    match src with
    | [] => exact .nil
    | b :: rest =>
      rw [compressFuel]
      by_cases packs : Packs b rest
      · have two := packs.count.1
        rw [if_pos packs]
        exact .run packs (ih _ (by rw [List.length_drop]; omega))
      rw [if_neg packs]
      by_cases hb : b = 0xED
      · subst hb
        rw [if_pos rfl]
        match rest with
        | [] => rw [List.drop_nil, compressFuel_nil]; exact .edLast
        | x :: rest =>
          have hx : x ≠ 0xED := by rintro rfl; exact packs (.inr ⟨rfl, two_le_runLength rfl⟩)
          exact .ed hx (ih rest (Nat.le_of_succ_le (Nat.le_of_succ_le_succ h)))
      · rw [if_neg hb]
        exact .literal hb (ih rest (Nat.le_of_succ_le_succ h))

theorem codes_compress (src : List Byte) : Codes src (compress src) := codes_compressFuel _ src le_rfl

/-! ## What the code is -/

/-- A code never begins with what follows 0x00 in an end marker: the count of a run is not 0. -/
theorem Codes.take_ne {src code : List Byte} (h : Codes src code) : code.take 3 ≠ [0xED, 0xED, 0] := by
  intro e
  cases h with
  | nil => cases e
  | @run b rest code packs h =>
    obtain ⟨two, count⟩ := packs.count
    have zero : BitVec.ofNat 8 (runLength b 255 (b :: rest)) = 0 := by simpa using e
    have : runLength b 255 (b :: rest) = 0 := count.symm.trans (congrArg BitVec.toNat zero)
    omega
  | literal hb h => exact hb (List.cons.inj e).1
  | edLast => cases e
  | ed hx h => exact hx (List.cons.inj (List.cons.inj e).2).1

/-- Every element of the code gives back the bytes it was made from. -/
theorem Codes.decompress {src code : List Byte} (h : Codes src code) : Machine.decompress code src.length = src := by
  induction h with
  | nil => rfl
  | @run b rest code packs h ih =>
    have count := packs.count.2
    have short := runLength_le_length b 255 (b :: rest)
    rw [decompress_run (List.length_cons ▸ Nat.succ_ne_zero _), count, Nat.min_eq_left short, ← List.length_drop, ih,
      replicate_runLength_append_drop]
  | literal hb h ih => rw [List.length_cons, decompress_literal (fun _ => h.take_ne) (absurd · hb), ih]
  | edLast => rfl
  | ed hx h ih =>
    rw [List.length_cons, decompress_literal (fun e => absurd e (by decide)) (by simpa using hx), List.length_cons,
      decompress_literal (fun _ => h.take_ne) (absurd · hx), ih]

/-- A byte of the source takes at most two of the code: two bytes 0xED take four. -/
theorem Codes.length_le {src code : List Byte} (h : Codes src code) : code.length ≤ 2 * src.length := by
  induction h with
  | nil => exact Nat.zero_le _
  | @run b rest code packs h ih =>
    have two := packs.count.1
    have short := runLength_le_length b 255 (b :: rest)
    simp only [List.length_cons, List.length_drop] at ih short ⊢
    omega
  | literal hb h ih => simp only [List.length_cons]; omega
  | edLast => decide
  | ed hx h ih => simp only [List.length_cons]; omega

/-- Settles O55: each element of the code stands for the bytes it was made from, by induction along the source. -/
theorem decompressOfCompressIsTheBytes : Obligations.DecompressOfCompressIsTheBytes := fun b =>
  (codes_compress b).decompress

end Sys2Proof.Machine
end

section
/-! PROOFS. The headers of a snapshot file (rules R461 to R466, R500, R501). -/

namespace Sys2Proof.Machine

/-! ## Bytes and words of a file -/

theorem byteAt_append_left {header : List Byte} {i : Nat} (h : i < header.length) (rest : List Byte) :
    byteAt (header ++ rest) i = header.getD i 0 :=
  List.getD_append header rest 0 i h

theorem byteAt_append_right {front : List Byte} {n : Nat} (h : front.length = n) (rest : List Byte) (i : Nat) :
    byteAt (front ++ rest) (n + i) = byteAt rest i := by
  rw [byteAt, List.getD_append_right _ _ _ _ (h ▸ Nat.le_add_right n i), h, Nat.add_sub_cancel_left]
  rfl

theorem toNat_wordAt (file : List Byte) (i : Nat) :
    (wordAt file i).toNat = (file.getD (i + 1) 0).toNat * 256 + (file.getD i 0).toNat :=
  joinBytes_toNat _ _

theorem joinBytes_eq_zero_iff {h l : Byte} : joinBytes h l = 0 ↔ h = 0 ∧ l = 0 := by
  rw [word_eq_iff, hi8_joinBytes, lo8_joinBytes]
  rfl

/-- IM has two bits; the value 3 does not exist (rule R463). -/
theorem and_3_eq_3_iff {v : Byte} : v &&& 3 = 3 ↔ v.toNat % 4 = 3 := by
  revert v; decide

/-! ## Headers that give no file (rule R501 (a), (b), (c)) -/

theorem parseExtended_eq_none {file : List Byte}
    (h : file.length < 32 ∨ (wordAt file 30).toNat ∉ [23, 54, 55] ∨ file.length < 32 + (wordAt file 30).toNat) :
    parseExtended file = none := by
  simp only [List.mem_cons, List.not_mem_nil, or_false, not_or] at h
  unfold parseExtended
  dsimp only
  split_ifs with short addlen ext
  · rfl
  · rfl
  · rfl
  · omega

/-- Without a PC in the fixed header the file is what its extended header says (rule R465). -/
theorem parseHeader_of_noPC {file : List Byte} (h0 : file.getD 6 0 = 0 ∧ file.getD 7 0 = 0)
    (h : parseExtended file = none) : parseHeader file = none := by
  have zero : wordAt file 6 = 0 := joinBytes_eq_zero_iff.2 h0.symm
  unfold parseHeader
  rw [if_neg (not_not.2 zero), h, ite_self, ite_self]

theorem parseHeader_of_badHeader {file : List Byte} (h : BadHeader file) : parseHeader file = none := by
  cases h with
  | short h => exact if_pos h
  | mode h => rw [parseHeader, if_pos (c := byteAt file 29 &&& 3 = 3) (and_3_eq_3_iff.2 h), ite_self]
  | noLength h0 h => exact parseHeader_of_noPC h0 (parseExtended_eq_none (.inl h))
  | addlen h0 h => exact parseHeader_of_noPC h0 (parseExtended_eq_none (.inr (.inl (by rwa [toNat_wordAt]))))
  | extShort h0 h => exact parseHeader_of_noPC h0 (parseExtended_eq_none (.inr (.inr (by rwa [toNat_wordAt]))))

/-! ## The header of a version 1 file (rules R461, R465) -/

/-- What the header of a version 1 file says. -/
def version1Parsed (header : List Byte) : Header where
  version1 := true
  is128 := false
  pc := joinBytes (header.getD 7 0) (header.getD 6 0)
  paging := 0
  bodyStart := 30

theorem parseHeader_of_version1Header {header : List Byte} (h : Version1Header header) (body : List Byte) :
    parseHeader (header ++ body) = some (version1Parsed header) := by
  obtain ⟨size, pc, mode⟩ := h
  have at_ (i : Nat) (hi : i < 30) := byteAt_append_left (size ▸ hi) body
  have word : wordAt (header ++ body) 6 = joinBytes (header.getD 7 0) (header.getD 6 0) :=
    congrArg₂ joinBytes (at_ 7 (by decide)) (at_ 6 (by decide))
  have noMode : ¬byteAt (header ++ body) 29 &&& 3 = 3 := by rwa [at_ 29 (by decide), and_3_eq_3_iff]
  rw [parseHeader, if_neg (by rw [List.length_append]; omega), if_neg noMode, word,
    if_pos (by rw [ne_eq, joinBytes_eq_zero_iff]; tauto)]
  rfl

/-! ## The headers of a version 2 or 3 file (rules R465, R466) -/

/-- What the headers of a version 2 or 3 file say. -/
def ExtendedFile.parsed (f : ExtendedFile) : Header where
  version1 := false
  is128 := f.is128
  pc := joinBytes (f.ext.getD 1 0) (f.ext.getD 0 0)
  paging := f.ext.getD 3 0
  bodyStart := 32 + f.addlen.toNat

/-- The file by its parts: fixed header, length of the extended header, extended header, blocks. -/
theorem ExtendedFile.bytes_append (f : ExtendedFile) (tail : List Byte) :
    f.bytes ++ tail = f.header ++ ([f.addlen, 0] ++ (f.ext ++ (f.blocks.flatMap FileBlock.bytes ++ tail))) := by
  simp only [ExtendedFile.bytes, List.append_assoc]

section
variable {f : ExtendedFile} (h : f.WellHeaded) (tail : List Byte)
include h

theorem ExtendedFile.WellHeaded.byteAt_header {i : Nat} (hi : i < 30) :
    byteAt (f.bytes ++ tail) i = f.header.getD i 0 := by
  rw [f.bytes_append, byteAt_append_left (by rwa [h.header])]

theorem ExtendedFile.WellHeaded.byteAt_addlen (i : Nat) : byteAt (f.bytes ++ tail) (30 + i) =
    byteAt ([f.addlen, 0] ++ (f.ext ++ (f.blocks.flatMap FileBlock.bytes ++ tail))) i := by
  rw [f.bytes_append, byteAt_append_right h.header]

theorem ExtendedFile.WellHeaded.byteAt_ext {i : Nat} (hi : i < 23) :
    byteAt (f.bytes ++ tail) (32 + i) = f.ext.getD i 0 := by
  have long : i < f.ext.length := by rw [h.ext]; obtain e | e | e := h.addlen <;> rw [e] <;> exact hi.trans_le (by decide)
  rw [show 32 + i = 30 + (2 + i) by omega, h.byteAt_addlen, byteAt_append_right (n := 2) rfl, byteAt_append_left long]

theorem ExtendedFile.WellHeaded.wordAt_addlen : (wordAt (f.bytes ++ tail) 30).toNat = f.addlen.toNat := by
  have high : byteAt (f.bytes ++ tail) 31 = 0 := h.byteAt_addlen tail 1
  have low : byteAt (f.bytes ++ tail) 30 = f.addlen := h.byteAt_addlen tail 0
  rw [wordAt, high, low, joinBytes_toNat]
  exact Nat.zero_add _

theorem ExtendedFile.WellHeaded.drop_headers :
    (f.bytes ++ tail).drop (32 + f.addlen.toNat) = f.blocks.flatMap FileBlock.bytes ++ tail := by
  rw [ExtendedFile.bytes, List.append_assoc _ _ tail]
  exact List.drop_left' (by simp [h.header, h.ext]; omega)

theorem ExtendedFile.WellHeaded.length_le : 32 + f.addlen.toNat ≤ (f.bytes ++ tail).length := by
  rw [f.bytes_append]
  simp [h.header, h.ext]
  omega

theorem ExtendedFile.WellHeaded.hardwareIs128 : Machine.hardwareIs128 f.addlen.toNat (f.ext.getD 2 0) = f.is128 := by
  obtain e | e | e := h.addlen <;> simp [Machine.hardwareIs128, ExtendedFile.is128, e]

theorem parseExtended_of_wellHeaded : parseExtended (f.bytes ++ tail) = some f.parsed := by
  have long := h.length_le tail
  have addlen : f.addlen.toNat = 23 ∨ f.addlen.toNat = 54 ∨ f.addlen.toNat = 55 := by
    obtain e | e | e := h.addlen <;> simp [e]
  have at_ {i : Nat} (hi : i < 23) := h.byteAt_ext tail hi
  unfold parseExtended
  dsimp only
  rw [h.wordAt_addlen, if_neg (by omega), if_neg (by omega), if_neg (by omega), wordAt, at_ (i := 0) (by decide),
    at_ (i := 1) (by decide), at_ (i := 2) (by decide), at_ (i := 3) (by decide), h.hardwareIs128]
  rfl

theorem parseHeader_of_wellHeaded : parseHeader (f.bytes ++ tail) = some f.parsed := by
  have long := h.length_le tail
  have at_ {i : Nat} (hi : i < 30) := h.byteAt_header tail hi
  have noMode : ¬byteAt (f.bytes ++ tail) 29 &&& 3 = 3 := by rw [at_ (by decide), and_3_eq_3_iff]; exact h.mode
  have noPC : wordAt (f.bytes ++ tail) 6 = 0 := by
    rw [wordAt, at_ (by decide), at_ (by decide)]; exact joinBytes_eq_zero_iff.2 h.noPC.symm
  rw [parseHeader, if_neg (by omega), if_neg noMode, if_neg (not_not.2 noPC), parseExtended_of_wellHeaded h]

end

end Sys2Proof.Machine
end

section
/-! PROOFS. What a snapshot load sets, and what makes it fail (rules R467 to R469, R500 to R506). -/

namespace Sys2Proof.Machine

/-! ## Registers, latches and border (rules R461 to R464, R502) -/

theorem flags1_append {header : List Byte} (hl : header.length = 30) (rest : List Byte) :
    flags1 (header ++ rest) = fileFlags1 header := by
  rw [flags1, byteAt_append_left (by omega)]
  rfl

/-- Bit 7 of R is bit 0 of `f1` (rule R462). -/
theorem toNat_loadR (file : List Byte) :
    (loadR file).toNat = (byteAt file 11).toNat % 128 + 128 * ((flags1 file).toNat % 2) := by
  have low : ∀ v : Byte, (v &&& 0x7F).toNat = v.toNat % 128 := by decide
  have high : ∀ v : Byte, (v <<< 7).toNat = (v.toNat % 2) <<< 7 := by decide
  have split : loadR file = (byteAt file 11 &&& (0x7F : Byte)) ||| flags1 file <<< 7 := rfl
  rw [split, BitVec.toNat_or, low, high, Nat.or_comm, ← Nat.shiftLeft_add_eq_or_of_lt (Nat.mod_lt _ (by decide)),
    Nat.shiftLeft_eq]
  omega

theorem toNat_loadIM {file : List Byte} (h : (byteAt file 29).toNat % 4 ≠ 3) :
    (loadIM file).code.toNat = (byteAt file 29).toNat % 4 := by
  unfold loadIM
  generalize byteAt file 29 = v at h
  revert v; decide

/-- Every register byte of the header goes to its register (rule R461). -/
theorem loadRegisters_register (s : State) (file : List Byte) (h : Header) (ram : Memory) :
    ∀ p ∈ headerBytes, p.2 < 30 ∧ (s.loadRegisters file h ram).register p.1 = (byteAt file p.2).toNat := by
  simp [headerBytes, State.register, State.loadRegisters, loadMain, loadShadow, wordAt]

/-- A load with the fixed header `header` of a file. -/
theorem headerLoaded_loadRegisters {header : List Byte} (hl : header.length = 30) (mode : (header.getD 29 0).toNat % 4 ≠ 3)
    (rest : List Byte) (s : State) (h : Header) (ram : Memory) :
    HeaderLoaded header s (s.loadRegisters (header ++ rest) h ram) := by
  have at_ {i : Nat} (hi : i < 30) : byteAt (header ++ rest) i = header.getD i 0 := byteAt_append_left (hl ▸ hi) rest
  have f1 := flags1_append hl rest
  refine ⟨fun p hp => ?_, ?_, ?_, ?_, ?_, ?_, ?_, ⟨rfl, rfl, rfl, rfl⟩, ⟨rfl, rfl, rfl, rfl, rfl, rfl, rfl, rfl⟩⟩
  · obtain ⟨hi, e⟩ := loadRegisters_register s (header ++ rest) h ram p hp
    rw [e, at_ hi]
  · exact congrArg₂ joinBytes (at_ (by decide)) (at_ (by decide))
  · rw [← at_ (by decide), ← f1]
    exact toNat_loadR _
  · rw [← f1, ← Nat.pow_one 2, ← Nat.shiftRight_eq_div_pow]
    exact BitVec.extractLsb'_toNat 1 3 _
  · rw [← at_ (by decide)]
    exact bne_iff_ne
  · rw [← at_ (by decide)]
    exact bne_iff_ne
  · rw [← at_ (by decide)] at mode ⊢
    exact toNat_loadIM mode

/-! ## RAM before the file's pages are put in (rules R503, R504) -/

/-- A page after pages are replaced, each by a content of its own. -/
theorem Memory.page_foldl_setPage {pages : List Nat} {content : Nat → List Byte} (hc : ∀ p, (content p).length = pageSize)
    (m : Memory) (page : Nat) :
    (pages.foldl (fun m p => m.setPage p (content p)) m).page page = if page ∈ pages then content page else m.page page := by
  induction pages generalizing m with
  | nil => rfl
  | cons p ps ih =>
    rw [List.foldl_cons, ih]
    by_cases hps : page ∈ ps
    · rw [if_pos hps, if_pos (List.mem_cons_of_mem p hps)]
    by_cases hp : page = p
    · subst hp
      rw [if_neg hps, if_pos List.mem_cons_self, page_setPage _ _ (hc page)]
    · rw [if_neg hps, if_neg (List.not_mem_cons_of_ne_of_not_mem hp hps), page_setPage_ne _ hp (hc p)]

theorem mem_absentPages_iff {bank : Nat} (h : bank < 8) : bank ∈ absentPages ↔ bank ∉ ramPages false := by
  revert bank; decide

theorem mem_ramPages_true {bank : Nat} (h : bank < 8) : bank ∈ ramPages true := by
  revert bank; decide

/-- A page of the mode of the file, before the file's own: its content, or the draw. -/
theorem page_ramForLoad (s : State) (fresh : Memory) {is128 : Bool} {bank : Bits3} (hm : bank.toNat ∈ ramPages is128) :
    (ramForLoad s is128 fresh).page bank.toNat = pageBefore s fresh bank := by
  unfold ramForLoad pageBefore
  cases is128 with
  | false =>
    have kept := (mem_absentPages_iff bank.isLt).not_left.2 hm
    cases mode : s.is128 with
    | false => rw [if_pos hm]; rfl
    | true =>
      rw [if_pos (mem_ramPages_true bank.isLt)]
      exact (Memory.page_foldl_setPage (fun _ => Memory.length_blankPage) _ _).trans (if_neg kept)
  | true =>
    cases mode : s.is128 with
    | false =>
      have new := mem_absentPages_iff bank.isLt
      refine (Memory.page_foldl_setPage (fun _ => Memory.length_page fresh _) _ _).trans ?_
      by_cases h : bank.toNat ∈ ramPages false
      · rw [if_neg (new.not_left.2 h), if_pos h]; rfl
      · rw [if_pos (new.2 h), if_neg h]
    | true => rw [if_pos hm]; rfl

/-! ## Version 2 and 3 files -/

/-- A load of a version 2 or 3 file: its blocks are put in, and the list goes on after them. -/
theorem load_extendedFile {f : ExtendedFile} (h : f.WellHeaded) (hb : ∀ b ∈ f.blocks, b.Loads f.is128) (tail : List Byte)
    (s : State) (fresh : Memory) :
    s.load (f.bytes ++ tail) fresh =
      (readBlocks f.is128 tail.length tail (putBlocks f.is128 f.blocks (ramForLoad s f.is128 fresh))).map
        (s.loadRegisters (f.bytes ++ tail) f.parsed) := by
  rw [State.load, parseHeader_of_wellHeaded h]
  simp only [ExtendedFile.parsed, Bool.false_eq_true, if_false, h.drop_headers]
  rw [readBlocks_blocks _ hb tail _ le_rfl]
  cases readBlocks f.is128 tail.length tail _ <;> rfl

theorem headerLoaded_extendedFile {f : ExtendedFile} (h : f.WellHeaded) (tail : List Byte) (s : State) (ram : Memory) :
    HeaderLoaded f.header s (s.loadRegisters (f.bytes ++ tail) f.parsed ram) := by
  rw [f.bytes_append]
  exact headerLoaded_loadRegisters h.header h.mode _ s f.parsed ram

/-- A file whose blocks load and that ends after them (rules R467, R502 to R504). -/
theorem load_of_fileEnd {f : ExtendedFile} (h : f.WellHeaded) (hb : ∀ b ∈ f.blocks, b.Loads f.is128) {tail : List Byte}
    (ht : FileEnd tail) (s : State) (fresh : Memory) :
    ∃ t, s.load (f.bytes ++ tail) fresh = some t ∧ HeaderLoaded f.header s t ∧
      t.pc = joinBytes (f.ext.getD 1 0) (f.ext.getD 0 0) ∧ t.is128 = f.is128 ∧
      t.memorySelect = (if f.is128 then f.ext.getD 3 0 else 0x30) ∧
      ∀ bank : Bits3, bank.toNat ∈ ramPages f.is128 → t.readPage bank =
        ((f.blocks.reverse.find? (·.isFor f.is128 bank.toNat)).map (·.page 16384)).getD (pageBefore s fresh bank) := by
  refine ⟨_, ?_, headerLoaded_extendedFile h tail s
    (putBlocks f.is128 f.blocks (ramForLoad s f.is128 fresh)), rfl, rfl, rfl, fun bank hm => ?_⟩
  · rw [load_extendedFile h hb, readBlocks_end ht]; rfl
  · rw [← page_ramForLoad s fresh hm]
    exact page_putBlocks f.is128 hb _ hm

/-- The length that a block announces, by the bytes of its field (rule R467). -/
theorem blockLength_joinBytes (l h : Byte) :
    blockLength (joinBytes h l) = if l = 0xFF ∧ h = 0xFF then 16384 else h.toNat * 256 + l.toNat := by
  have full : joinBytes h l = 0xFFFF ↔ l = 0xFF ∧ h = 0xFF := by
    rw [word_eq_iff, hi8_joinBytes, lo8_joinBytes, and_comm]; rfl
  rw [blockLength, joinBytes_toNat]
  exact if_congr full rfl rfl

/-- A block cut off by the end of the file (rule R501 (d), (e)). -/
theorem readBlocks_cutOff {rest : List Byte} (h : CutOff rest) (is128 : Bool) (ram : Memory) :
    readBlocks is128 rest.length rest ram = none := by
  cases h with
  | one l => rfl
  | two l h => rfl
  | data l h id data h0 hd =>
    have ne : joinBytes h l ≠ 0 := by rw [ne_eq, joinBytes_eq_zero_iff]; tauto
    rw [List.length_cons, readBlocks]
    exact (if_neg ne).trans (if_pos (blockLength_joinBytes l h ▸ hd))

theorem FileBlock.length_bytes_append (b : FileBlock) (rest : List Byte) :
    (b.bytes ++ rest).length = b.data.length + rest.length + 2 + 1 := by
  rw [List.length_append, b.length_bytes]; omega

/-- A known page that is not whole (rule R501 (f)). -/
theorem readBlocks_not_whole {b : FileBlock} {is128 : Bool} (hs : b.Sized) (hl : ¬b.Loads is128) (n : Nat)
    (rest : List Byte) (ram : Memory) : readBlocks is128 (n + 1) (b.bytes ++ rest) ram = none := by
  simp only [FileBlock.Loads, hs, true_and, not_forall] at hl
  obtain ⟨bank, hm, known, short⟩ := hl
  rw [readBlocks_block _ _ hs, (b.isFor_iff _ hm).1 known]
  exact if_neg short

/-! ## Version 1 files (rule R468) -/

theorem bodyBytes_eq_bodyOf {header : List Byte} (hl : header.length = 30) (p : Config.Params) (body : List Byte) (size : Nat) :
    bodyBytes (v1Compressed p (header ++ body)) body size = bodyOf p header body size := by
  rw [bodyBytes, bodyOf, v1Compressed, flags1_append hl]
  by_cases e : fileFlags1 header &&& p.v1CompressedMask = 0
  · rw [if_pos e, if_neg (by simpa using e)]
  · rw [if_neg e, if_pos (by simpa using e)]

/-- RAM with the three pages of a version 1 body put in. -/
def putBody (mem : List Byte) (ram : Memory) : Memory :=
  ((ram.setPage 5 (mem.take 16384)).setPage 2 ((mem.drop 16384).take 16384)).setPage 0 (mem.drop 32768)

theorem page_putBody {mem : List Byte} (hl : mem.length = 49152) (ram : Memory) :
    (putBody mem ram).page 5 = mem.take 16384 ∧ (putBody mem ram).page 2 = (mem.drop 16384).take 16384 ∧
      (putBody mem ram).page 0 = mem.drop 32768 := by
  have h5 : (mem.take 16384).length = pageSize := by rw [List.length_take, hl]; rfl
  have h2 : ((mem.drop 16384).take 16384).length = pageSize := by rw [List.length_take, List.length_drop, hl]; rfl
  have h0 : (mem.drop 32768).length = pageSize := by rw [List.length_drop, hl]; rfl
  unfold putBody
  refine ⟨?_, ?_, Memory.page_setPage _ _ h0⟩
  · rw [Memory.page_setPage_ne _ (by decide) h0, Memory.page_setPage_ne _ (by decide) h2, Memory.page_setPage _ _ h5]
  · rw [Memory.page_setPage_ne _ (by decide) h0, Memory.page_setPage _ _ h2]

theorem readBody_version1 {header : List Byte} (h : Version1Header header) (p : Config.Params) (body : List Byte)
    (ram : Memory) : readBody p (header ++ body) ram =
      if (bodyOf p header body 49152).length = 49152 then some (putBody (bodyOf p header body 49152) ram) else none := by
  have drop : (header ++ body).drop 30 = body := List.drop_left' h.size
  simp only [readBody, drop, bodyBytes_eq_bodyOf h.size]
  rfl

theorem load_version1 {header : List Byte} (h : Version1Header header) (body : List Byte) (s : State) (fresh : Memory) :
    s.load (header ++ body) fresh =
      if (bodyOf s.params header body 49152).length = 49152 then
        some (s.loadRegisters (header ++ body) (version1Parsed header)
          (putBody (bodyOf s.params header body 49152) (ramForLoad s false fresh)))
      else none := by
  rw [State.load, parseHeader_of_version1Header h]
  simp only [version1Parsed, if_true, readBody_version1 h]
  split_ifs <;> rfl

/-- Settles O58: the parsed header sets registers and mode, and each page is the last block for it, or what it was. -/
theorem loadSetsWhatTheFileHolds : Obligations.LoadSetsWhatTheFileHolds := by
  refine fun s fresh => ⟨fun f tail h hb ht => load_of_fileEnd h hb ht s fresh, fun header body h hl => ?_⟩
  obtain ⟨page5, page2, page0⟩ := page_putBody hl (ramForLoad s false fresh)
  exact ⟨_, (load_version1 h body s fresh).trans (if_pos hl), headerLoaded_loadRegisters h.size h.mode body s _ _, rfl, rfl,
    rfl, page5, page2, page0⟩

theorem load_of_parseHeader_none {file : List Byte} (h : parseHeader file = none) (s : State) (fresh : Memory) :
    s.load file fresh = none := by
  rw [State.load, h]

/-- Settles O59: no header, no block list, or no whole version 1 body; the host call keeps the machine on `none`. -/
theorem filesThatFailChangeNothing : Obligations.FilesThatFailChangeNothing := by
  refine fun s fresh => ⟨fun file h => ?_, fun file h => load_of_parseHeader_none (parseHeader_of_badHeader h) s fresh,
    fun f rest h hb => ⟨fun cut => ?_, fun b hs hl => ?_⟩, fun header body h hl => ?_⟩
  · rw [HostCall.run, h]; rfl
  · rw [load_extendedFile h hb, readBlocks_cutOff cut]; rfl
  · rw [List.append_assoc, load_extendedFile h hb, b.length_bytes_append, readBlocks_not_whole hs hl]; rfl
  · rw [load_version1 h, if_neg hl]

end Sys2Proof.Machine
end

section
/-! PROOFS. A saved machine loads back (rules R510, R513). -/

namespace Sys2Proof.Machine

/-! ## The file `Save` writes (rule R510) -/

/-- The block of a page. -/
def savedBlock (is128 : Bool) (bank : Nat) (page : List Byte) : FileBlock := ⟨bankToPage bank is128, false, compress page⟩

theorem saveBlock_eq_bytes (is128 : Bool) (bank : Nat) (page : List Byte) :
    saveBlock is128 bank page = (savedBlock is128 bank page).bytes := rfl

/-- The fixed header of a saved file, byte by byte (rule R461). -/
def savedFixed (s : State) : List Byte :=
  [s.main.a, s.main.f, s.main.c, s.main.b, s.main.l, s.main.h, 0, 0, lo8 s.sp, hi8 s.sp, s.i, s.r &&& 0x7F,
    (s.r >>> 7) ||| (s.border.setWidth 8 <<< 1), s.main.e, s.main.d, s.shadow.c, s.shadow.b, s.shadow.e, s.shadow.d,
    s.shadow.l, s.shadow.h, s.shadow.a, s.shadow.f, lo8 s.iy, hi8 s.iy, lo8 s.ix, hi8 s.ix, flipFlop s.iff1,
    flipFlop s.iff2, s.im.code]

/-- The file of a machine, by its parts. -/
def savedFile (s : State) : ExtendedFile where
  header := savedFixed s
  addlen := 0x17
  ext := [lo8 s.pc, hi8 s.pc, if s.is128 then 3 else 0, s.memorySelect] ++ List.replicate 19 0
  blocks := (saveOrder s.is128).map fun bank => savedBlock s.is128 bank (s.ram.page bank)

theorem saveHeader_eq (s : State) : saveHeader s = (savedFile s).header ++ [0x17, 0] ++ (savedFile s).ext := by
  unfold saveHeader savedFile savedFixed State.bc State.hl State.de Bank.bc Bank.de Bank.hl
  simp only [wordBytes, lo8_joinBytes, hi8_joinBytes, List.cons_append, List.nil_append]

theorem save_eq_bytes (s : State) : s.save = (savedFile s).bytes := by
  rw [State.save, ExtendedFile.bytes, saveHeader_eq, savedFile, List.flatMap_map]
  simp only [saveBlock_eq_bytes]

theorem savedFile_wellHeaded (s : State) : (savedFile s).WellHeaded where
  header := rfl
  noPC := ⟨rfl, rfl⟩
  mode := by
    show s.im.code.toNat % 4 ≠ 3
    cases s.im <;> decide
  addlen := .inl rfl
  ext := rfl

theorem savedFile_is128 (s : State) : (savedFile s).is128 = s.is128 := by
  show decide (3 ≤ (if s.is128 then (3 : Byte) else 0).toNat) = s.is128
  cases s.is128 <;> rfl

/-! ## The registers of the file -/

theorem savedFile_header (s : State) :
    ∀ p ∈ headerBytes, ((savedFile s).header.getD p.2 0).toNat = s.register p.1 :=
  List.map_inj_left.1 rfl

/-- Every register but SP, PC and R has a byte of the fixed header (rule R461). -/
theorem exists_headerByte {q : Register} (hq : q ∉ [.sp, .pc, .r]) : ∃ p ∈ headerBytes, p.1 = q := by
  revert hq
  cases q <;> decide

/-- `f1` of a saved file: bit 7 of R below the border (rule R462). -/
theorem toNat_savedFlags1 (s : State) :
    (fileFlags1 (savedFile s).header).toNat = s.r.toNat / 128 + 2 * s.border.toNat := by
  have hr := s.r.isLt
  have hb := s.border.isLt
  have byte : ((savedFile s).header.getD 12 0).toNat = s.r.toNat / 128 + 2 * s.border.toNat := by
    show ((s.r >>> 7) ||| (s.border.setWidth 8 <<< 1)).toNat = _
    have shifted : (s.border.setWidth 8 <<< 1).toNat = s.border.toNat <<< 1 := by
      generalize s.border = b; revert b; decide
    rw [BitVec.toNat_or, shifted, BitVec.toNat_ushiftRight, Nat.shiftRight_eq_div_pow, Nat.or_comm,
      ← Nat.shiftLeft_add_eq_or_of_lt (by omega), Nat.shiftLeft_eq]
    omega
  have ne : (savedFile s).header.getD 12 0 ≠ 0xFF := by
    intro e
    rw [e] at byte
    have : (0xFF : Byte).toNat = 255 := rfl
    omega
  rw [fileFlags1, if_neg ne, byte]

/-! ## The pages of the file -/

theorem savedBlock_page (is128 : Bool) (bank : Nat) {page : List Byte} (h : page.length = 16384) :
    (savedBlock is128 bank page).page 16384 = page := by
  have back := (codes_compress page).decompress
  rwa [h] at back

theorem savedBlock_loads (is128 : Bool) (bank : Nat) {page : List Byte} (h : page.length = 16384) :
    (savedBlock is128 bank page).Loads is128 := by
  have codes := codes_compress page
  have short := codes.length_le
  have nonempty : 0 < (compress page).length := by
    refine List.length_pos_iff.2 fun e => ?_
    rw [e] at codes
    cases codes
    cases h
  refine ⟨?_, fun _ _ _ => by rw [savedBlock_page is128 bank h, h]⟩
  show (if false = true then _ else 0 < (compress page).length ∧ (compress page).length < 0xFFFF)
  rw [if_neg Bool.false_ne_true]
  omega

/-- The last block for a page is the page's own (rule R469). -/
theorem find_savedBlock (s : State) {bank : Nat} (h : bank ∈ ramPages s.is128) :
    (savedFile s).blocks.reverse.find? (·.isFor s.is128 bank) = some (savedBlock s.is128 bank (s.ram.page bank)) := by
  have blocks : (savedFile s).blocks = (saveOrder s.is128).map fun bank => savedBlock s.is128 bank (s.ram.page bank) := rfl
  have byId (b : FileBlock) : b.isFor s.is128 bank = (pageToBank b.id s.is128 == some bank) := by
    rw [Bool.eq_iff_iff, b.isFor_iff _ h, beq_iff_eq]
  have ids : ∀ is128 : Bool, ∀ bank ∈ ramPages is128,
      (saveOrder is128).reverse.find? (fun b => pageToBank (bankToPage b is128) is128 == some bank) = some bank := by decide
  simp only [byId]
  rw [blocks, ← List.map_reverse, List.find?_map]
  exact congrArg (Option.map _) (ids s.is128 bank h)

/-! ## The round trip -/

theorem code_injective {m m' : IntMode} (h : m.code.toNat = m'.code.toNat) : m = m' := by
  revert h
  cases m <;> cases m' <;> decide

theorem flipFlop_ne_zero_iff {b : Bool} : flipFlop b ≠ 0 ↔ b = true := by
  cases b <;> decide

/-- A load of the fixed header of a saved file gives every register but PC, the flip-flops, IM and the border back. -/
theorem HeaderLoaded.of_saved {s s' t : State} (h : HeaderLoaded (savedFile s).header s' t) :
    (∀ q, q ≠ .pc → t.register q = s.register q) ∧ t.iff1 = s.iff1 ∧ t.iff2 = s.iff2 ∧ t.im = s.im ∧ t.border = s.border := by
  have hr := s.r.isLt
  have hb := s.border.isLt
  have f1 := toNat_savedFlags1 s
  refine ⟨fun q hq => ?_, Bool.eq_iff_iff.2 (h.iff1.trans flipFlop_ne_zero_iff),
    Bool.eq_iff_iff.2 (h.iff2.trans flipFlop_ne_zero_iff), code_injective ?_, BitVec.eq_of_toNat_eq ?_⟩
  · by_cases sp : q = .sp
    · subst sp
      exact congrArg BitVec.toNat (h.sp.trans (joinBytes_hi8_lo8 s.sp))
    by_cases r : q = .r
    · subst r
      have low : ∀ v : Byte, (v &&& 0x7F).toNat % 128 = v.toNat % 128 := by decide
      have counter : ((savedFile s).header.getD 11 0).toNat % 128 = s.r.toNat % 128 := low s.r
      have value := h.r
      rw [f1, counter] at value
      show t.r.toNat = s.r.toNat
      omega
    · obtain ⟨p, hp, rfl⟩ := exists_headerByte (q := q) (by simp [sp, r, hq])
      exact (h.registers p hp).trans (savedFile_header s p hp)
  · have mode : ∀ m : IntMode, m.code.toNat % 4 = m.code.toNat := by
      intro m; cases m <;> rfl
    exact h.im.trans (mode s.im)
  · rw [h.border, f1]
    omega

/-- Settles O56: the saved file is a version 2 file whose blocks load, so a load sets what it holds. -/
theorem loadOfSaveIsTheMachine : Obligations.LoadOfSaveIsTheMachine := by
  intro s s' fresh inv
  have loads : ∀ b ∈ (savedFile s).blocks, b.Loads (savedFile s).is128 := by
    rw [savedFile_is128]
    exact List.forall_mem_map.2 fun bank _ => savedBlock_loads s.is128 bank (Memory.length_page s.ram bank)
  obtain ⟨t, load, header, pc, mode, paging, pages⟩ :=
    load_of_fileEnd (savedFile_wellHeaded s) loads .eof s' fresh
  rw [List.append_nil, ← save_eq_bytes] at load
  rw [savedFile_is128] at mode paging pages
  obtain ⟨registers, iff1, iff2, im, border⟩ := header.of_saved
  obtain ⟨halt, eiDelay, intPending, nmiPending⟩ := header.latches
  obtain ⟨time, rom, -⟩ := header.kept
  refine ⟨t, load, fun q => ?_, iff1, iff2, im, border, mode, ?_, fun bank hm => ?_, halt, eiDelay, intPending, nmiPending,
    time, rom⟩
  · by_cases hq : q = .pc
    · subst hq
      exact congrArg BitVec.toNat (pc.trans (joinBytes_hi8_lo8 s.pc))
    · exact registers q hq
  · rw [paging]
    cases is128 : s.is128 with
    | false => exact (inv.paging_48 is128).symm
    | true => rfl
  · rw [pages bank hm, find_savedBlock s hm, Option.map_some, Option.getD_some]
    exact savedBlock_page s.is128 bank.toNat (Memory.length_page s.ram bank.toNat)

end Sys2Proof.Machine
end

section
/-! PROOFS. `Screenshot` (rule R515). -/

namespace Sys2Proof.Machine

/-! ## The search for page 5 -/

/-- Any fuel that covers the bytes gives the same. -/
theorem findScreen_fuel {n m : Nat} {bytes : List Byte} (hn : bytes.length ≤ n) (hm : bytes.length ≤ m) :
    findScreen n bytes = findScreen m bytes := by
  induction n generalizing m bytes with
  | zero =>
    obtain rfl := List.length_eq_zero_iff.1 (Nat.le_zero.1 hn)
    cases m <;> rfl
  | succ n ih =>
    match bytes, m with
    | [], m => cases m <;> rfl
    | [_], m => cases m <;> rfl
    | [_, _], m => cases m <;> rfl
    | l :: h :: id :: rest, 0 => exact absurd hm (Nat.not_succ_le_zero _)
    | l :: h :: id :: rest, m + 1 =>
      have shorter : (rest.drop (blockLength (joinBytes h l))).length ≤ rest.length := by
        rw [List.length_drop]; exact Nat.sub_le _ _
      simp only [List.length_cons] at hn hm
      simp only [findScreen]
      rw [ih (m := m) (by omega) (by omega)]

/-- Blocks of other pages are passed over. -/
theorem findScreen_blocks {blocks : List FileBlock} (hb : ∀ b ∈ blocks, b.Sized ∧ b.id ≠ 8) (rest : List Byte) {n : Nat}
    (hn : (blocks.flatMap FileBlock.bytes ++ rest).length ≤ n) :
    findScreen n (blocks.flatMap FileBlock.bytes ++ rest) = findScreen rest.length rest := by
  induction blocks generalizing n with
  | nil => exact findScreen_fuel hn le_rfl
  | cons b bs ih =>
    rw [List.forall_mem_cons] at hb
    obtain ⟨⟨sized, other⟩, hbs⟩ := hb
    rw [List.flatMap_cons, List.append_assoc] at hn ⊢
    rw [List.length_append, b.length_bytes] at hn
    match n with
    | 0 => omega
    | n + 1 => rw [findScreen_block n sized, if_neg other, ih hbs (by omega)]

theorem findScreen_of_fileEnd {rest : List Byte} (h : FileEnd rest) : findScreen rest.length rest = none := by
  cases h with
  | eof => rfl
  | terminator id rest =>
    rw [List.length_cons, findScreen]
    exact if_pos (joinBytes_eq_zero_iff.2 ⟨rfl, rfl⟩)

theorem findScreen_of_cutOff {rest : List Byte} (h : CutOff rest) : findScreen rest.length rest = none := by
  cases h with
  | one l => rfl
  | two l h => rfl
  | data l h id data h0 hd =>
    have ne : joinBytes h l ≠ 0 := by rw [ne_eq, joinBytes_eq_zero_iff]; tauto
    rw [List.length_cons, findScreen]
    exact (if_neg ne).trans (if_pos (blockLength_joinBytes l h ▸ hd))

/-! ## The screen of a file -/

/-- A screenshot succeeds with the bytes found when they are a whole screen. -/
def wholeScreen (found : Option (List Byte)) : Option (List Byte) :=
  found.bind fun screen => if screen.length = 6912 then some screen else none

theorem screenshot_of_wellHeaded {f : ExtendedFile} (h : f.WellHeaded) (hb : ∀ b ∈ f.blocks, b.Sized ∧ b.id ≠ 8)
    (p : Config.Params) (rest : List Byte) :
    screenshot p (f.bytes ++ rest) = wholeScreen (findScreen rest.length rest) := by
  rw [screenshot, parseHeader_of_wellHeaded h]
  simp only [ExtendedFile.parsed, Bool.false_eq_true, if_false, h.drop_headers]
  rw [findScreen_blocks hb rest le_rfl]
  cases findScreen rest.length rest <;> rfl

theorem screenshot_of_version1Header {header : List Byte} (h : Version1Header header) (p : Config.Params) (body : List Byte) :
    screenshot p (header ++ body) = wholeScreen (some (bodyOf p header body 6912)) := by
  have drop : (header ++ body).drop 30 = body := List.drop_left' h.size
  rw [screenshot, parseHeader_of_version1Header h]
  simp only [version1Parsed, if_true, drop, bodyBytes_eq_bodyOf h.size]
  rfl

/-- Settles O60: the search passes over the blocks of other pages, to a block with id 8 or to the end. -/
theorem screenshotIsTheStartOfPage5 : Obligations.ScreenshotIsTheStartOfPage5 := by
  refine fun p => ⟨fun file h => ?_, fun header body h => screenshot_of_version1Header h p body,
    fun f h hb => ⟨fun b rest sized screen => ?_, fun rest stop => ?_⟩⟩
  · rw [screenshot, parseHeader_of_badHeader h]
  · rw [List.append_assoc, screenshot_of_wellHeaded h hb, b.length_bytes_append, findScreen_block _ sized, if_pos screen]
    rfl
  · rw [screenshot_of_wellHeaded h hb, stop.elim findScreen_of_fileEnd findScreen_of_cutOff]
    rfl

end Sys2Proof.Machine
end

section
/-! PROOFS. Calls and returns (rules R390, R400 to R403, R408 to R410, R541). -/

namespace Sys2Proof.Machine

/-- The target of `RST` is 8 times its operand (rule R126). -/
theorem restartAddress_eq (t : Bits3) : restartAddress t = BitVec.ofNat 16 (8 * t.toNat) := by
  revert t; decide

/-- A call that is taken. -/
theorem exec_of_calls {s : State} {i : Instr} {target : Word} (h : Calls s i target) :
    exec i s = .next (s.call target) := by
  cases h with
  | always nn => rfl
  | taken cc nn h => exact congrArg _ (if_pos (cond_iff.2 h))
  | restart t => rw [← restartAddress_eq]; rfl

/-- Settles O44: a taken call is `call`; one not taken is the state itself. -/
theorem callsPushTheReturnAddress : Obligations.CallsPushTheReturnAddress := by
  refine fun s => ⟨fun i target h => ?_, fun cc nn h => congrArg _ (if_neg (mt cond_iff.1 h))⟩
  obtain ⟨high, low⟩ := stored_call s target
  exact ⟨_, exec_of_calls h, s.call_pc target, s.call_sp target, high, low, (frame_call s target).mono (by simp) (by simp)⟩

/-- A return that is taken pops PC; the stack does not depend on IFF1. -/
theorem exec_of_returns {s : State} {i : Instr} {iff1 : Bool} (h : Returns s i iff1) :
    exec i s = .next ({ s with iff1 := iff1 }.dropTop.setPC s.popped) := by
  cases h with
  | always => rfl
  | taken cc h => exact congrArg _ (if_pos (cond_iff.2 h))
  | fromInt => rfl
  | fromNmi => rfl
  | fromNmiCopy y => rfl

/-- Settles O45: a taken return is the update of SP and PC, with IFF1 as the instruction leaves it. -/
theorem returnsPopPC : Obligations.ReturnsPopPC :=
  fun s => ⟨fun _ iff1 h => ⟨_, exec_of_returns h, rfl, rfl,
      (frame_dropTop { s with iff1 := iff1 }).trans_of (frame_setPC _ _) (by simp) (by simp)⟩,
    fun cc h => congrArg _ (if_neg (mt cond_iff.1 h))⟩

end Sys2Proof.Machine
end

section
/-! PROOFS. Input and output (rules R420 to R424, R426 to R436, R441 to R445). -/

namespace Sys2Proof.Machine

/-! ## The byte that is read, and the flags -/

theorem setF_register (s : State) (f : Byte) {q : Register} (h : q ≠ .f) : (s.setF f).register q = s.register q :=
  (frame_setF s f).registers q (by simpa using h)

theorem reg8_name_ne_f (r : Reg8) : r.name ≠ .f := by
  cases r <;> decide

/-- Settles O46: each is `portIn`, then updates of its register and of F. -/
theorem inputsReadTheirPort : Obligations.InputsReadTheirPort := by
  intro s i lo hi h v s1 flags
  have fromPort : flags (inFlags v s.main.f) := flagsAre_in v s.main.f
  cases h with
  | inA n =>
    refine ⟨s1.setA v, rfl, fun _ _ => ⟨rfl, frame_setA s1 v⟩, nofun, nofun⟩
  | inR r =>
    refine ⟨(s1.setReg8 r v).setF (inFlags v s.main.f), rfl, nofun, ?_, nofun⟩
    rintro _ ⟨⟩
    obtain ⟨loaded, frame⟩ := setReg8_loads s1 r v
    exact ⟨(setF_register _ _ (reg8_name_ne_f r)).trans loaded, fromPort, frame.trans (frame_setF _ _)⟩
  | inF => exact ⟨s1.setF (inFlags v s.main.f), rfl, nofun, nofun, fun _ => ⟨fromPort, frame_setF s1 _⟩⟩

/-! ## Output -/

/-- The state after an output: the event, the border latch and the paging byte (rules R442, R443). -/
def State.outputDone (s : State) (lo hi v : Byte) : State :=
  { s with
    trace := .output lo hi v :: s.trace
    border := if lo = 0xFE then v.extractLsb' 0 3 else s.border
    memorySelect := if s.isPagingPort lo hi = true ∧ s.memorySelect.getLsbD 5 = false then v else s.memorySelect }

theorem portOut_eq (s : State) (lo hi v : Byte) : s.portOut lo hi v = s.outputDone lo hi v := by
  have paging : (if s.isPagingPort lo hi then s.setPaging v else s) = { s with
      memorySelect := if s.isPagingPort lo hi = true ∧ s.memorySelect.getLsbD 5 = false then v else s.memorySelect } := by
    by_cases port : s.isPagingPort lo hi = true
    · rw [if_pos port, setPaging_eq, State.setPaging_memorySelect, pagingLock]
      cases s.memorySelect.getLsbD 5 <;> simp [port]
    · rw [if_neg port, if_neg fun h => port h.1]
  simp only [State.portOut, State.outputDone, paging]
  by_cases border : lo = 0xFE
  · simp only [if_pos border]
  · simp only [if_neg border]

/-- The port that pages by default (rule R445). -/
theorem isPagingPort_default {s : State} (h : s.params = Config.Params.default) (lo hi : Byte) :
    s.isPagingPort lo hi = true ↔ lo = 0xFD ∧ hi = 0x7F := by
  have all : joinBytes hi lo &&& 0xFFFF = joinBytes hi lo := BitVec.and_allOnes
  have port : s.isPagingPort lo hi = (joinBytes hi lo == 0x7FFD) := by
    rw [State.isPagingPort, h, Config.Params.default, List.any_cons, List.any_nil, Bool.or_false, all]
  rw [port, beq_iff_eq, word_eq_iff, hi8_joinBytes, lo8_joinBytes, and_comm]
  rfl

/-- An output changes no register and no flag. -/
theorem exec_of_writesPort {s : State} {i : Instr} {lo hi v : Byte} (h : WritesPort s i lo hi v) :
    exec i s = .next (s.portOut lo hi v) := by
  cases h <;> rfl

/-- Settles O47: each is `portOut`. -/
theorem outputsWriteTheirPort : Obligations.OutputsWriteTheirPort := by
  refine ⟨fun s i lo hi v h => ⟨s.outputDone lo hi v, ?_, .refl _⟩, fun s lo hi h => isPagingPort_default h lo hi⟩
  rw [exec_of_writesPort h, portOut_eq]

/-! ## Block input, one iteration -/

/-- The state after the port read of a block input. -/
abbrev State.blockRead (s : State) : State := (s.portIn s.main.c s.main.b).state

/-- The byte that a block input reads. -/
abbrev State.blockByte (s : State) : Byte := (s.portIn s.main.c s.main.b).value

/-- A block input is its port read, its store, then updates of HL, B and F (rules R428, R429). -/
theorem frame_blockIn_of_store (s : State) (d : Word) :
    Frame (s.blockRead.memWrite s.hl s.blockByte) (s.blockIn d) [.h, .l, .b, .f] [] :=
  ((frame_setHL _ (s.hl + d)).trans (frame_setB _ (s.main.b - 1))).trans (frame_setF _ _)

theorem frame_blockIn (s : State) (d : Word) : Frame s.blockRead (s.blockIn d) [.h, .l, .b, .f] [s.word .hl] :=
  (frame_memWrite s.blockRead s.hl s.blockByte).trans (frame_blockIn_of_store s d)

theorem stored_blockIn (s : State) (d : Word) : Stored s (s.blockIn d) (s.word .hl) s.blockByte :=
  (stored_memWrite s.blockRead s.hl s.blockByte).of_frame (frame_blockIn_of_store s d)

theorem blockIn_hl (s : State) (d : Word) : (s.blockIn d).word .hl = s.word .hl + d := joinBytes_hi8_lo8 _

theorem blockIn_pc (s : State) (d : Word) : (s.blockIn d).pc = s.pc :=
  State.memWrite_pc s.blockRead s.hl s.blockByte

/-- C and the step of HL, as the flags add them (rules R428, R429). -/
theorem toNat_add_lo8 (c : Byte) (d : Word) : (c + lo8 d).toNat = (c.toNat + d.toNat) % 256 := by
  rw [BitVec.toNat_add, lo8_toNat, Nat.add_mod_mod]

/-- The four block inputs: the step of HL, and whether the form repeats; a form that does not is one that never rewinds. -/
theorem exec_blockIn (s : State) :
    ∀ x ∈ [(Instr.ini, (1 : Word), false), (.inir, 1, true), (.ind, -1, false), (.indr, -1, true)],
      exec x.1 s = .next ((s.blockIn x.2.1).rewindIf (x.2.2 && s.main.b - 1 ≠ 0)) := by
  simp only [List.forall_mem_cons]
  exact ⟨rfl, rfl, rfl, rfl, List.forall_mem_nil _⟩

/-- Settles O48: an iteration is `blockIn`, and the rewind after it changes PC alone. -/
theorem blockInputStoresOneByte : Obligations.BlockInputStoresOneByte := by
  intro s x hx lo hi v s1 b k
  have read := frame_blockIn s x.2.1
  have rewound := frame_rewindIf (s.blockIn x.2.1) (x.2.2 && b ≠ 0)
  refine ⟨_, exec_blockIn s x hx, (stored_blockIn s x.2.1).of_frame rewound,
    (rewindIf_word _ _ .hl).trans (blockIn_hl s x.2.1), ?b, ?flags, ?pc, read.trans_of rewound (by simp) (by simp)⟩
  case b => rw [State.rewindIf_main]; rfl
  case flags =>
    rw [State.rewindIf_main, show k = v.toNat + (s.main.c + lo8 x.2.1).toNat by rw [toNat_add_lo8]]
    exact flagsAre_io v b _
  case pc => simp only [State.rewindIf_pc, blockIn_pc, Bool.and_eq_true, decide_eq_true_iff, b]

/-! ## Block output, one iteration -/

/-- The output of a block output, whose port has B after its decrement: B decremented, and its effects (rules R433, R434). -/
theorem portOut_setB (s : State) (b lo hi v : Byte) : (s.setB b).portOut lo hi v = (s.outputDone lo hi v).setB b :=
  portOut_eq (s.setB b) lo hi v

/-- The state after the output of a block output, B apart. -/
abbrev State.blockWritten (s : State) : State := s.outputDone s.main.c (s.main.b - 1) (s.memRead s.hl)

theorem blockOut_eq (s : State) (d : Word) :
    s.blockOut d = ((s.blockWritten.setB (s.main.b - 1)).setHL (s.hl + d)).setF
      (ioFlags (s.memRead s.hl) (s.main.b - 1) ((s.memRead s.hl).toNat + (lo8 (s.hl + d)).toNat)) := by
  rw [← portOut_setB]
  rfl

theorem frame_blockOut (s : State) (d : Word) : Frame s.blockWritten (s.blockOut d) [.b, .h, .l, .f] [] := by
  rw [blockOut_eq]
  exact ((frame_setB _ (s.main.b - 1)).trans (frame_setHL _ (s.hl + d))).trans (frame_setF _ _)

theorem exec_blockOut (s : State) :
    ∀ x ∈ [(Instr.outi, (1 : Word), false), (.otir, 1, true), (.outd, -1, false), (.otdr, -1, true)],
      exec x.1 s = .next ((s.blockOut x.2.1).rewindIf (x.2.2 && s.main.b - 1 ≠ 0)) := by
  simp only [List.forall_mem_cons]
  exact ⟨rfl, rfl, rfl, rfl, List.forall_mem_nil _⟩

/-- Settles O49: an iteration is `blockOut`, and the rewind after it changes PC alone. -/
theorem blockOutputWritesOneByte : Obligations.BlockOutputWritesOneByte := by
  intro s x hx v b lo k
  have written := frame_blockOut s x.2.1
  have rewound := frame_rewindIf (s.blockOut x.2.1) (x.2.2 && b ≠ 0)
  refine ⟨_, exec_blockOut s x hx, (rewindIf_word _ _ .hl).trans ?hl, ?b, ?flags, ?pc,
    written.trans_of rewound (by simp) (by simp)⟩
  case hl => rw [blockOut_eq]; exact joinBytes_hi8_lo8 _
  case b => rw [State.rewindIf_main, blockOut_eq]; rfl
  case flags =>
    rw [State.rewindIf_main, blockOut_eq, show k = v.toNat + (lo8 (s.hl + x.2.1)).toNat by rw [lo8_toNat]; rfl]
    exact flagsAre_io v b _
  case pc =>
    rw [blockOut_eq]
    simp only [State.rewindIf_pc, Bool.and_eq_true, decide_eq_true_iff, b]
    rfl

end Sys2Proof.Machine
end

section
/-! PROOFS. Every finished form completes (rule R520); its T-states, and those of every slot (rules R536 to R538, R551 to R553, R590, R593). -/

namespace Sys2Proof.Machine

/-- Settles O8: the meaning of a finished instruction is total, by its constructor. -/
theorem everyFinishedInstructionCompletes : Obligations.EveryFinishedInstructionCompletes := fun _ s h =>
  exec_completes h s

/-! ## Every finished form has its T-states (rule R593) -/

section
variable (s : State)

theorem timed_arithmetic (op : Source → Instr) (x : Source)
    (h : op ∈ [addOf, adcOf, subOf, sbcOf, andOf, xorOf, orOf, cpOf] := by simp) : ∃ n, Timed s (op x) n :=
  ⟨_, .arithmetic op x h⟩

theorem timed_counting (op : Target → Instr) (x : Target) (h : op ∈ [incOf, decOf] := by simp) : ∃ n, Timed s (op x) n :=
  ⟨_, .counting op x h⟩

/-- A form whose T-states depend on a condition (rule R32). -/
theorem timed_conditional (cc : Cond) (e : Byte) (nn : Word) :
    (∃ n, Timed s (.retCc cc) n) ∧ (∃ n, Timed s (.jrCcE cc e) n) ∧ ∃ n, Timed s (.callCcNN cc nn) n := by
  by_cases h : cc.Holds s.main.f
  · exact ⟨⟨_, .taken cc e nn (.retCc cc, 11) h (by simp)⟩, ⟨_, .taken cc e nn (.jrCcE cc e, 12) h (by simp)⟩,
      ⟨_, .taken cc e nn (.callCcNN cc nn, 17) h (by simp)⟩⟩
  · exact ⟨⟨_, .notTaken cc e nn (.retCc cc, 5) h (by simp)⟩, ⟨_, .notTaken cc e nn (.jrCcE cc e, 7) h (by simp)⟩,
      ⟨_, .notTaken cc e nn (.callCcNN cc nn, 10) h (by simp)⟩⟩

theorem timed_djnzE (e : Byte) : ∃ n, Timed s (.djnzE e) n := by
  by_cases h : s.main.b = 1
  · exact ⟨8, .ends e h⟩
  · exact ⟨13, .loops e h⟩

/-- A repeating copy: again or for the last time (rule R236). -/
theorem timed_copy {i : Instr} (hi : i ∈ [Instr.ldir, .lddr]) : ∃ n, Timed s i n := by
  by_cases h : s.word .bc = 1
  · exact ⟨16, .copyLast i h hi⟩
  · exact ⟨21, .copyAgain i h hi⟩

/-- A repeating search: again or for the last time (rule R240). -/
theorem timed_search {i : Instr} (hi : i ∈ [Instr.cpir, .cpdr]) : ∃ n, Timed s i n := by
  by_cases h : s.word .bc = 1 ∨ s.main.a = s.memRead (s.word .hl)
  · exact ⟨16, .searchLast i h hi⟩
  · exact ⟨21, .searchAgain i (not_or.1 h) hi⟩

/-- A repeating input or output: again or for the last time (rule R430). -/
theorem timed_port {i : Instr} (hi : i ∈ [Instr.inir, .indr, .otir, .otdr]) : ∃ n, Timed s i n := by
  by_cases h : s.main.b = 1
  · exact ⟨16, .portLast i h hi⟩
  · exact ⟨21, .portAgain i h hi⟩

/-- By the groups of the table of rule R593; an operand that a row of a group has and its instruction has not is any. -/
theorem exists_timed {i : Instr} (h : i.complete = true) : ∃ n, Timed s i n := by
  induction i with
  | indexAgain xy i ih => obtain ⟨n, hn⟩ := ih h; exact ⟨_, .prefixed xy i _ n hn (by simp)⟩
  | edAfterIndex xy i ih => obtain ⟨n, hn⟩ := ih h; exact ⟨_, .prefixed xy i _ n hn (by simp)⟩
  | indexNoEffect xy i ih => obtain ⟨n, hn⟩ := ih h; exact ⟨_, .prefixed xy i _ n hn (by simp)⟩
  | prefixCB | prefixDD | prefixED | prefixFD | prefixCBAfterIndex => cases h
  | ldRR r r' => exact ⟨4, .four r r' _ (by simp)⟩
  | nop | halt | di | ei | exAFAF | exx | exDEHL | rlca | rla | rrca | rra | daa | cpl | scf | ccf | jpHL =>
    exact ⟨4, .four .a .a _ (by simp)⟩
  | incSS ss | decSS ss => exact ⟨6, .six ss _ (by simp)⟩
  | ldSPHL => exact ⟨6, .six .sp _ (by simp)⟩
  | ldRN r n => exact ⟨7, .seven r n _ (by simp)⟩
  | ldRHL r | ldHLR r => exact ⟨7, .seven r 0 _ (by simp)⟩
  | ldABC | ldADE | ldBCA | ldDEA => exact ⟨7, .seven .a 0 _ (by simp)⟩
  | bitBR b r => exact ⟨8, .eight b 0 r 0 .ix .a .a _ (by simp)⟩
  | negCopies y | im0Copies y => exact ⟨8, .eight 0 y .a 0 .ix .a .a _ (by simp)⟩
  | edNop op => exact ⟨8, .eight 0 0 .a op .ix .a .a _ (by simp)⟩
  | jpXY xy => exact ⟨8, .eight 0 0 .a 0 xy .a .a _ (by simp)⟩
  | ldPP xy p p' => exact ⟨8, .eight 0 0 .a 0 xy p p' _ (by simp)⟩
  | neg | im0 | im1 | im2 | im1Copy | im2Copy => exact ⟨8, .eight 0 0 .a 0 .ix .a .a _ (by simp)⟩
  | ldAI | ldAR | ldIA | ldRA => exact ⟨9, .nine _ (by simp)⟩
  | ldDDNN dd nn => exact ⟨10, .ten dd nn 0 .z .af .ix _ (by simp)⟩
  | ldHLN n => exact ⟨10, .ten .sp 0 n .z .af .ix _ (by simp)⟩
  | jpNN nn => exact ⟨10, .ten .sp nn 0 .z .af .ix _ (by simp)⟩
  | jpCcNN cc nn => exact ⟨10, .ten .sp nn 0 cc .af .ix _ (by simp)⟩
  | popQQ qq => exact ⟨10, .ten .sp 0 0 .z qq .ix _ (by simp)⟩
  | incXY xy | decXY xy | ldSPXY xy => exact ⟨10, .ten .sp 0 0 .z .af xy _ (by simp)⟩
  | ret => exact ⟨10, .ten .sp 0 0 .z .af .ix _ (by simp)⟩
  | addHLSS ss => exact ⟨11, .eleven ss .af 0 0 .ix _ (by simp)⟩
  | pushQQ qq => exact ⟨11, .eleven .sp qq 0 0 .ix _ (by simp)⟩
  | rstP p => exact ⟨11, .eleven .sp .af p 0 .ix _ (by simp)⟩
  | inAN n | outNA n => exact ⟨11, .eleven .sp .af 0 n .ix _ (by simp)⟩
  | ldXYHN xy n | ldXYLN xy n => exact ⟨11, .eleven .sp .af 0 n xy _ (by simp)⟩
  | jrE e => exact ⟨12, .twelve e 0 .a _ (by simp)⟩
  | bitBHL b => exact ⟨12, .twelve 0 b .a _ (by simp)⟩
  | inRC r | outCR r => exact ⟨12, .twelve 0 0 r _ (by simp)⟩
  | inFC | outC0 => exact ⟨12, .twelve 0 0 .a _ (by simp)⟩
  | ldANN nn | ldNNA nn => exact ⟨13, .thirteen nn _ (by simp)⟩
  | ldXYNN xy nn => exact ⟨14, .fourteen xy nn 0 _ (by simp)⟩
  | popXY xy => exact ⟨14, .fourteen xy 0 0 _ (by simp)⟩
  | retnCopies y => exact ⟨14, .fourteen .ix 0 y _ (by simp)⟩
  | reti | retn => exact ⟨14, .fourteen .ix 0 0 _ (by simp)⟩
  | adcHLSS ss | sbcHLSS ss => exact ⟨15, .fifteen ss .ix .sp _ (by simp)⟩
  | addXYPP xy pp => exact ⟨15, .fifteen .sp xy pp _ (by simp)⟩
  | pushXY xy => exact ⟨15, .fifteen .sp xy .sp _ (by simp)⟩
  | ldHLNN nn | ldNNHL nn => exact ⟨16, .sixteen nn _ (by simp)⟩
  | ldi | ldd | cpi | cpd | ini | ind | outi | outd => exact ⟨16, .sixteen 0 _ (by simp)⟩
  | callNN nn => exact ⟨17, .seventeen nn⟩
  | rld | rrd => exact ⟨18, .eighteen _ (by simp)⟩
  | ldRXYd xy r d | ldXYdR xy r d => exact ⟨19, .nineteen xy r d 0 _ (by simp)⟩
  | ldXYdN xy d n => exact ⟨19, .nineteen xy .a d n _ (by simp)⟩
  | exSPHL => exact ⟨19, .nineteen .ix .a 0 0 _ (by simp)⟩
  | ldDDMem dd nn => exact ⟨20, .twenty dd nn .ix 0 0 0 _ (by simp)⟩
  | ldNNDD nn dd => exact ⟨20, .twenty dd nn .ix 0 0 0 _ (by simp)⟩
  | ldXYMem xy nn | ldNNXY xy nn => exact ⟨20, .twenty .sp nn xy 0 0 0 _ (by simp)⟩
  | bitBXYd xy d b => exact ⟨20, .twenty .sp 0 xy d b 0 _ (by simp)⟩
  | bitBXYdCopies xy d b z => exact ⟨20, .twenty .sp 0 xy d b z _ (by simp)⟩
  | exSPXY xy => exact ⟨23, .twentyThree xy⟩
  | retCc cc => obtain ⟨timed, -, -⟩ := timed_conditional s cc 0 0; exact timed
  | jrCcE cc e => obtain ⟨-, timed, -⟩ := timed_conditional s cc e 0; exact timed
  | callCcNN cc nn => obtain ⟨-, -, timed⟩ := timed_conditional s cc 0 nn; exact timed
  | djnzE e => exact timed_djnzE s e
  | ldir | lddr => exact timed_copy s (by simp)
  | cpir | cpdr => exact timed_search s (by simp)
  | inir | indr | otir | otdr => exact timed_port s (by simp)
  | addR r => exact timed_arithmetic s addOf (.reg r)
  | addHL => exact timed_arithmetic s addOf .atHL
  | addN n => exact timed_arithmetic s addOf (.imm n)
  | addXYd xy d => exact timed_arithmetic s addOf (.atXYd xy d)
  | addXYH xy => exact timed_arithmetic s addOf (.half xy .high)
  | addXYL xy => exact timed_arithmetic s addOf (.half xy .low)
  | adcR r => exact timed_arithmetic s adcOf (.reg r)
  | adcHL => exact timed_arithmetic s adcOf .atHL
  | adcN n => exact timed_arithmetic s adcOf (.imm n)
  | adcXYd xy d => exact timed_arithmetic s adcOf (.atXYd xy d)
  | adcXYH xy => exact timed_arithmetic s adcOf (.half xy .high)
  | adcXYL xy => exact timed_arithmetic s adcOf (.half xy .low)
  | subR r => exact timed_arithmetic s subOf (.reg r)
  | subHL => exact timed_arithmetic s subOf .atHL
  | subN n => exact timed_arithmetic s subOf (.imm n)
  | subXYd xy d => exact timed_arithmetic s subOf (.atXYd xy d)
  | subXYH xy => exact timed_arithmetic s subOf (.half xy .high)
  | subXYL xy => exact timed_arithmetic s subOf (.half xy .low)
  | sbcR r => exact timed_arithmetic s sbcOf (.reg r)
  | sbcHL => exact timed_arithmetic s sbcOf .atHL
  | sbcN n => exact timed_arithmetic s sbcOf (.imm n)
  | sbcXYd xy d => exact timed_arithmetic s sbcOf (.atXYd xy d)
  | sbcXYH xy => exact timed_arithmetic s sbcOf (.half xy .high)
  | sbcXYL xy => exact timed_arithmetic s sbcOf (.half xy .low)
  | andR r => exact timed_arithmetic s andOf (.reg r)
  | andHL => exact timed_arithmetic s andOf .atHL
  | andN n => exact timed_arithmetic s andOf (.imm n)
  | andXYd xy d => exact timed_arithmetic s andOf (.atXYd xy d)
  | andXYH xy => exact timed_arithmetic s andOf (.half xy .high)
  | andXYL xy => exact timed_arithmetic s andOf (.half xy .low)
  | xorR r => exact timed_arithmetic s xorOf (.reg r)
  | xorHL => exact timed_arithmetic s xorOf .atHL
  | xorN n => exact timed_arithmetic s xorOf (.imm n)
  | xorXYd xy d => exact timed_arithmetic s xorOf (.atXYd xy d)
  | xorXYH xy => exact timed_arithmetic s xorOf (.half xy .high)
  | xorXYL xy => exact timed_arithmetic s xorOf (.half xy .low)
  | orR r => exact timed_arithmetic s orOf (.reg r)
  | orHL => exact timed_arithmetic s orOf .atHL
  | orN n => exact timed_arithmetic s orOf (.imm n)
  | orXYd xy d => exact timed_arithmetic s orOf (.atXYd xy d)
  | orXYH xy => exact timed_arithmetic s orOf (.half xy .high)
  | orXYL xy => exact timed_arithmetic s orOf (.half xy .low)
  | cpR r => exact timed_arithmetic s cpOf (.reg r)
  | cpHL => exact timed_arithmetic s cpOf .atHL
  | cpN n => exact timed_arithmetic s cpOf (.imm n)
  | cpXYd xy d => exact timed_arithmetic s cpOf (.atXYd xy d)
  | cpXYH xy => exact timed_arithmetic s cpOf (.half xy .high)
  | cpXYL xy => exact timed_arithmetic s cpOf (.half xy .low)
  | incR r => exact timed_counting s incOf (.reg r)
  | incHL => exact timed_counting s incOf .atHL
  | incXYd xy d => exact timed_counting s incOf (.atXYd xy d)
  | incXYH xy => exact timed_counting s incOf (.half xy .high)
  | incXYL xy => exact timed_counting s incOf (.half xy .low)
  | decR r => exact timed_counting s decOf (.reg r)
  | decHL => exact timed_counting s decOf .atHL
  | decXYd xy d => exact timed_counting s decOf (.atXYd xy d)
  | decXYH xy => exact timed_counting s decOf (.half xy .high)
  | decXYL xy => exact timed_counting s decOf (.half xy .low)
  | rlcR r => exact ⟨_, .shifting .rlc (.reg r)⟩
  | rlcHL => exact ⟨_, .shifting .rlc .atHL⟩
  | rlcXYd xy d => exact ⟨_, .shifting .rlc (.atXYd xy d)⟩
  | rlcXYdR xy d r => exact ⟨_, .shifting .rlc (.atXYdCopy xy d r)⟩
  | rrcR r => exact ⟨_, .shifting .rrc (.reg r)⟩
  | rrcHL => exact ⟨_, .shifting .rrc .atHL⟩
  | rrcXYd xy d => exact ⟨_, .shifting .rrc (.atXYd xy d)⟩
  | rrcXYdR xy d r => exact ⟨_, .shifting .rrc (.atXYdCopy xy d r)⟩
  | rlR r => exact ⟨_, .shifting .rl (.reg r)⟩
  | rlHL => exact ⟨_, .shifting .rl .atHL⟩
  | rlXYd xy d => exact ⟨_, .shifting .rl (.atXYd xy d)⟩
  | rlXYdR xy d r => exact ⟨_, .shifting .rl (.atXYdCopy xy d r)⟩
  | rrR r => exact ⟨_, .shifting .rr (.reg r)⟩
  | rrHL => exact ⟨_, .shifting .rr .atHL⟩
  | rrXYd xy d => exact ⟨_, .shifting .rr (.atXYd xy d)⟩
  | rrXYdR xy d r => exact ⟨_, .shifting .rr (.atXYdCopy xy d r)⟩
  | slaR r => exact ⟨_, .shifting .sla (.reg r)⟩
  | slaHL => exact ⟨_, .shifting .sla .atHL⟩
  | slaXYd xy d => exact ⟨_, .shifting .sla (.atXYd xy d)⟩
  | slaXYdR xy d r => exact ⟨_, .shifting .sla (.atXYdCopy xy d r)⟩
  | sraR r => exact ⟨_, .shifting .sra (.reg r)⟩
  | sraHL => exact ⟨_, .shifting .sra .atHL⟩
  | sraXYd xy d => exact ⟨_, .shifting .sra (.atXYd xy d)⟩
  | sraXYdR xy d r => exact ⟨_, .shifting .sra (.atXYdCopy xy d r)⟩
  | sllR r => exact ⟨_, .shifting .sll (.reg r)⟩
  | sllHL => exact ⟨_, .shifting .sll .atHL⟩
  | sllXYd xy d => exact ⟨_, .shifting .sll (.atXYd xy d)⟩
  | sllXYdR xy d r => exact ⟨_, .shifting .sll (.atXYdCopy xy d r)⟩
  | srlR r => exact ⟨_, .shifting .srl (.reg r)⟩
  | srlHL => exact ⟨_, .shifting .srl .atHL⟩
  | srlXYd xy d => exact ⟨_, .shifting .srl (.atXYd xy d)⟩
  | srlXYdR xy d r => exact ⟨_, .shifting .srl (.atXYdCopy xy d r)⟩
  | resBR b r => exact ⟨_, .setting (resOf b) b (.reg r) (by simp)⟩
  | resBHL b => exact ⟨_, .setting (resOf b) b .atHL (by simp)⟩
  | resBXYd xy d b => exact ⟨_, .setting (resOf b) b (.atXYd xy d) (by simp)⟩
  | resBXYdR xy d b r => exact ⟨_, .setting (resOf b) b (.atXYdCopy xy d r) (by simp)⟩
  | setBR b r => exact ⟨_, .setting (setOf b) b (.reg r) (by simp)⟩
  | setBHL b => exact ⟨_, .setting (setOf b) b .atHL (by simp)⟩
  | setBXYd xy d b => exact ⟨_, .setting (setOf b) b (.atXYd xy d) (by simp)⟩
  | setBXYdR xy d b r => exact ⟨_, .setting (setOf b) b (.atXYdCopy xy d r) (by simp)⟩
end

/-! ## The cost of a slot without contention -/

theorem costWith_of_none {s : State} (h : s.params.contention = .none) (base : Nat) (code : List Byte) (cycles : List Word) :
    costWith s base code cycles = base := by
  rw [costWith, slotDelay, if_pos h, Nat.add_zero]

theorem instrCost_of_timed {s : State} (h : s.params.contention = .none) {i : Instr} {n : Nat} (hi : Timed s i n)
    (bytes extra : Nat) : s.instrCost i bytes extra = n + extra := by
  rw [State.instrCost, costWith_of_none h, timed_baseCost hi]

/-- The device's byte changes neither memory nor PC, so it changes no lookup (rule R536). -/
theorem lookup_mode0Byte (s : State) (sofar : List Byte) : s.mode0Byte.state.lookup sofar = s.lookup sofar := by
  have bytes (n : Nat) (a : Word) : s.mode0Byte.state.bytesFrom n a = s.bytesFrom n a := by
    induction n generalizing a with
    | zero => rfl
    | succ n ih => exact congrArg (s.memRead a :: ·) (ih (a + 1))
  rw [State.lookup, bytes]
  rfl

/-- A mode 0 acceptance costs 2 T-states more than the instruction it performs (rule R536). -/
theorem intCost_of_mode0 {s : State} {i : Instr} (im : s.im = .im0)
    (h : s.lookup [s.busAnswers.head?.getD (Config.freeBus s.busReads)] = some i) : s.intCost = s.instrCost i 1 2 := by
  have found : s.mode0Byte.state.lookup [s.mode0Byte.value] = some i := (lookup_mode0Byte s _).trans h
  simp only [State.intCost, im, found]

/-- Settles O17: a slot adds its cost, which without contention is its base cost, and that is the one of its form. -/
theorem slotsCostWhatTheSpecSays : Obligations.SlotsCostWhatTheSpecSays := by
  refine ⟨fun s i h => exists_timed s h, fun s t h => ?_⟩
  obtain ⟨time, four⟩ := step_next h
  refine ⟨time, four, fun free => ⟨fun nmi => ?_, fun int im => ?_, fun int im => ?_, fun i n int im found timed => ?_,
    fun halted => ?_, fun i n instruction found timed => ?_⟩⟩
  · rw [State.slotCost, nmi]; exact costWith_of_none free _ _ _
  · rw [State.slotCost, int]; simp only [State.intCost, im]; exact costWith_of_none free _ _ _
  · rw [State.slotCost, int]; simp only [State.intCost, im]; exact costWith_of_none free _ _ _
  · rw [State.slotCost, int]; exact (intCost_of_mode0 im found).trans (instrCost_of_timed free timed 1 2)
  · rw [State.slotCost, halted]
  · rw [State.slotCost, instruction]; simp only [found]; exact instrCost_of_timed free timed 0 0

end Sys2Proof.Machine
end

section
/-! PROOFS. Interrupt entries (rules R531, R533 to R540). -/

namespace Sys2Proof.Machine

/-! ## The slot -/

theorem step_of_nmi {s : State} (h : s.nextSlot = .nmi) : step s = .next (s.enterNmi.addT s.slotCost) := by
  simp only [step, State.perform, h]

theorem step_of_int {s t : State} (h : s.nextSlot = .int) (ht : s.enterInt = .next t) :
    step s = .next (t.addT s.slotCost) := by
  simp only [step, State.perform, h, ht]

/-- T is no part of what an effect changes: its cost comes on top (rule R551). -/
theorem Frame.addT {s t : State} {regs : List Register} {stored : List Word} (h : Frame s t regs stored) (n : Nat) :
    Frame { s with t := s.t + n } (t.addT n) regs stored := by
  obtain ⟨paging, mode, time, border, params⟩ := h.machine
  exact ⟨h.registers, h.interrupts, ⟨paging, mode, congrArg (· + n) time, border, params⟩, h.host, h.rom, h.ram, h.reads⟩

/-! ## Entry at an address (rules R531, R537, R540) -/

/-- `t` is `s` after an entry to `handler`: R counted, PC on the stack, Halt, EiDelay and IFF1 cleared. -/
structure Entered (s t : State) (handler : Word) : Prop where
  pc : t.pc = handler
  sp : t.sp = s.sp - 2
  r : t.r = countR s.r 1
  high : Stored s t (s.sp - 1) (hi8 s.pc)
  low : Stored s t (s.sp - 2) (lo8 s.pc)
  frame : Frame { s with halt := false, eiDelay := false, iff1 := false } t [.pc, .sp, .r] [s.sp - 1, s.sp - 2]

/-- An entry is a call from the state after the acknowledge. -/
theorem entered_takeInterrupt (s : State) (handler : Word) : Entered s (s.takeInterrupt handler) handler := by
  obtain ⟨high, low⟩ := stored_call s.acknowledge handler
  have counted : Frame { s with halt := false, eiDelay := false, iff1 := false } s.acknowledge [.r] [] := frame_setR _ _
  exact ⟨State.call_pc s.acknowledge handler, State.call_sp s.acknowledge handler,
    (State.call_r s.acknowledge handler).trans (incR_countR s 1), high, low,
    counted.trans_of (frame_call s.acknowledge handler) (by simp) (by simp [State.acknowledge])⟩

/-- Settles O50: the pending NMI comes first, and its entry is `takeInterrupt` with the latch cleared. -/
theorem nmiEntry : Obligations.NmiEntry := by
  intro s pending
  have slot : s.nextSlot = .nmi := if_pos pending
  obtain ⟨pc, sp, r, high, low, frame⟩ := entered_takeInterrupt { s with nmiPending := false } 0x0066
  exact ⟨_, step_of_nmi slot, pc, sp, r, high, low, frame.addT s.slotCost⟩

/-! ## Modes 1 and 2 -/

/-- The state in which a mode 2 entry is made: the request cleared, the device's byte taken (rules R534, R538). -/
def State.busTaken (s : State) : State :=
  { s.clearRequest with busAnswers := s.busAnswers.tail, busReads := s.busReads + 1 }

/-- The address of the vector of a mode 2 entry, from the device's byte (rule R538). -/
def State.vector (s : State) : Word :=
  vectorAddress s.i (s.busAnswers.head?.getD (Config.freeBus s.busReads))

/-- A mode 2 entry is one to the word that stands at the vector once PC is on the stack (rule R538). -/
theorem enterMode2_eq (s : State) :
    s.enterMode2 = s.busTaken.takeInterrupt ((s.busTaken.acknowledge.push16 s.pc).memRead16 s.vector) := by
  rw [State.enterMode2, Drawn.into_eq]
  dsimp only
  rw [State.push16_i]
  rfl

/-- PC is loaded through the vector as memory stands after the entry. -/
theorem entered_enterMode2 (s : State) : Entered s.busTaken s.enterMode2 (s.enterMode2.memRead16 s.vector) := by
  have loaded : s.enterMode2.memRead16 s.vector = (s.busTaken.acknowledge.push16 s.pc).memRead16 s.vector := by
    rw [enterMode2_eq]; rfl
  rw [loaded, enterMode2_eq]
  exact entered_takeInterrupt s.busTaken _

/-- Settles O51: an entry at 0x0038, or at the word at the vector as the entry leaves it. -/
theorem maskableEntryInModes1And2 : Obligations.MaskableEntryInModes1And2 := by
  intro s noNmi pending enabled undelayed mode b vector s1
  have slot : s.nextSlot = .int := nextSlot_eq_int_iff.2 ⟨noNmi, pending, enabled, undelayed⟩
  have modes : ∀ m : IntMode, m ≠ .im0 → m = .im1 ∨ m = .im2 := by
    intro m; cases m <;> decide
  obtain im | im := modes s.im mode
  · have entry : s.enterInt = .next s.enterMode1 := by simp only [State.enterInt, im]
    obtain ⟨pc, sp, r, high, low, frame⟩ := entered_takeInterrupt s.clearRequest 0x0038
    exact ⟨_, step_of_int slot entry, sp, r, high, low, fun _ => ⟨pc, frame.addT s.slotCost⟩,
      fun im2 => absurd (im.symm.trans im2) (by decide)⟩
  · have entry : s.enterInt = .next s.enterMode2 := by simp only [State.enterInt, im]
    obtain ⟨pc, sp, r, high, low, frame⟩ := entered_enterMode2 s
    exact ⟨_, step_of_int slot entry, sp, r, high, low, fun im1 => absurd (im.symm.trans im1) (by decide),
      fun _ => ⟨pc, frame.addT s.slotCost⟩⟩

/-! ## Mode 0 -/

theorem toNat_countR (r : Byte) (n : Nat) : (countR r n).toNat = r.toNat / 128 * 128 + (r.toNat + n) % 128 := by
  have high : ∀ v : Byte, (v &&& 0x80).toNat = (v.toNat / 128) <<< 7 := by decide
  have low : ∀ v : Byte, (v &&& 0x7F).toNat = v.toNat % 128 := by decide
  have count := Nat.mod_lt (BitVec.ofNat 8 (r.toNat + n)).toNat (show 0 < 128 by decide)
  rw [countR, BitVec.toNat_or, high, low, ← Nat.shiftLeft_add_eq_or_of_lt (i := 7) count, Nat.shiftLeft_eq, BitVec.toNat_ofNat]
  omega

/-- Two counts are one of their sum (rule R36). -/
theorem countR_countR (r : Byte) (m n : Nat) : countR (countR r m) n = countR r (m + n) := by
  apply BitVec.eq_of_toNat_eq
  simp only [toNat_countR]
  omega

/-- The acknowledge of mode 0 counts R once before the fetch of the instruction (rule R536). -/
theorem fetchedBy_mode0Byte (s : State) (bytes n : Nat) :
    s.mode0Byte.state.fetchedBy bytes n = { s with
      intPending := false, halt := false, eiDelay := false, iff1 := false, iff2 := false,
      busAnswers := s.busAnswers.tail, busReads := s.busReads + 1 }.fetchedBy bytes (1 + n) := by
  have counted : countR s.mode0Byte.state.r n = countR s.r (1 + n) := by
    rw [← countR_countR]
    exact congrArg (countR · n) (incR_countR s 1)
  rw [State.fetchedBy, counted]
  rfl

/-- Settles O52: the lookup from the device's byte finds the instruction, which executes after the acknowledge. -/
theorem maskableEntryInMode0 : Obligations.MaskableEntryInMode0 := by
  intro s n i rest noNmi pending enabled undelayed im hn h hi
  have slot : s.nextSlot = .int := nextSlot_eq_int_iff.2 ⟨noNmi, pending, enabled, undelayed⟩
  have found : s.mode0Byte.state.lookup [s.mode0Byte.value] = some i :=
    (lookup_mode0Byte s _).trans (lookup_of_decode hn h hi)
  obtain ⟨t, ht⟩ := exec_completes hi (s.mode0Byte.state.fetchedBy (i.encode.length - 1) (rIncrements s.params i))
  have entry : s.enterInt = .next t := by
    simp only [State.enterInt, im]
    exact (resume_of_lookup found 0).trans ht
  exact ⟨t, fetchedBy_mode0Byte s _ _ ▸ ht, step_of_int slot entry⟩

end Sys2Proof.Machine
end
